-- ==== Sys2Proof/Word.lean ====
section
/-! DEFINITION. Word.lean: the widths of AECI-CORE's registers and of its bus (00_scope.md R8, R10; 10_state.md R30).
Every value is unsigned and bits are numbered from 0 at the least significant end (R10). -/

namespace Sys2Proof

/-- A byte: a symbol, a FIFO entry, OACC, ICACHE, RESULT (R30). -/
abbrev Byte := BitVec 8

/-- `W` = 16 bits: LOW, HIGH and VALUE (R8, R30). -/
abbrev Half := BitVec 16

/-- `BUS_W`, `COUNT_W`, `PENDING_W` = 32 bits: a bus word, a command word, a count, PENDING, ERR_CMD (R8). -/
abbrev Word := BitVec 32

/-- `TOTAL_W` = 40 bits: TOTAL and the cumulative starts (R8). -/
abbrev Wide := BitVec 40

/-- A byte offset into the register space, `OFFSET_W` = 12 bits (R8, R101). -/
abbrev Offset := BitVec 12

end Sys2Proof
end

