-- ==== Sys2Proof/Syntax.lean ====
section
/-! DEFINITION. Syntax.lean: the commands of AECI-CORE, one constructor per row of spec/opcode_table.json (30_encoding.md R153). The only
operand is SYM, an unsigned 8-bit symbol (R152). -/

namespace Sys2Proof

/-- The ten commands (R153). -/
inductive Instr where
  /-- NOP (R212). -/
  | nop
  /-- ABORT (R213). -/
  | abort
  /-- FT_CLEAR (R301). -/
  | ftClear
  /-- FT_INC s (R302). -/
  | ftInc (sym : Byte)
  /-- FT_COMMIT (R303). -/
  | ftCommit
  /-- ENC_INIT (R362). -/
  | encInit
  /-- ENC_SYM s (R363). -/
  | encSym (sym : Byte)
  /-- ENC_FINISH (R364). -/
  | encFinish
  /-- DEC_INIT (R406). -/
  | decInit
  /-- DEC_SYM (R407). -/
  | decSym
deriving DecidableEq, Repr

end Sys2Proof
end

