-- ==== Sys2Proof/Decode.lean ====
section
/-! DEFINITION. Decode.lean: command words and commands (30_encoding.md R150 to R157). A word is one 32-bit number: the bus has no byte
order (20_memory.md R107), so there are no bytes to lay out (log 14). -/

namespace Sys2Proof

/-- Why a word is an illegal command: the three kinds of R155. -/
inductive Illegal where
  /-- `RSV` is not 0. -/
  | reservedField
  /-- `OPC` is one of the 246 reserved values. -/
  | reservedOpcode
  /-- `SYM` is not 0 on a command without an operand. -/
  | operandNotZero
deriving DecidableEq, Repr

/-- `OPC = w[31:24]` (R151). -/
def opcField (w : Word) : Byte := w.extractLsb' 24 8

/-- `RSV = w[23:8]` (R151). -/
def rsvField (w : Word) : Half := w.extractLsb' 8 16

/-- `SYM = w[7:0]` (R151). -/
def symField (w : Word) : Byte := w.extractLsb' 0 8

/-- The eight commands without an operand, by their OPC (R153). -/
def plainCommand (opc : Byte) : Option Instr :=
  if opc = 0x00 then some .nop
  else if opc = 0x01 then some .abort
  else if opc = 0x10 then some .ftClear
  else if opc = 0x12 then some .ftCommit
  else if opc = 0x20 then some .encInit
  else if opc = 0x22 then some .encFinish
  else if opc = 0x30 then some .decInit
  else if opc = 0x31 then some .decSym
  else none

/-- `Decode(w)` of R154, the kind of ILLEGAL named. -/
def decode (w : Word) : Except Illegal Instr :=
  if rsvField w ≠ 0 then .error .reservedField
  else if opcField w = 0x11 then .ok (.ftInc (symField w))
  else if opcField w = 0x21 then .ok (.encSym (symField w))
  else match plainCommand (opcField w) with
    | some c => if symField w = 0 then .ok c else .error .operandNotZero
    | none => .error .reservedOpcode

/-- `OPC` of a command (R153). -/
def Instr.opcode : Instr → Byte
  | .nop => 0x00
  | .abort => 0x01
  | .ftClear => 0x10
  | .ftInc _ => 0x11
  | .ftCommit => 0x12
  | .encInit => 0x20
  | .encSym _ => 0x21
  | .encFinish => 0x22
  | .decInit => 0x30
  | .decSym => 0x31

/-- `SYM` of a command: its operand, or 0 (R151). -/
def Instr.symOperand : Instr → Byte
  | .nop => 0
  | .abort => 0
  | .ftClear => 0
  | .ftInc sym => sym
  | .ftCommit => 0
  | .encInit => 0
  | .encSym sym => sym
  | .encFinish => 0
  | .decInit => 0
  | .decSym => 0

/-- The word of a command: `(OPC << 24) | sym` (R151, R158). -/
def encode (c : Instr) : Word := c.opcode ++ (0 : Half) ++ c.symOperand

/-- A row of the opcode map: a word `w` is of the row when `(w & mask) = match` (R153). -/
structure OpcodeRow where
  mnemonic : String
  matchWord : Word
  mask : Word
deriving DecidableEq, Repr

/-- The opcode map, row for row (R153). -/
def opcodeMap : List OpcodeRow :=
  [ ⟨"NOP",        0x00000000, 0xFFFFFFFF⟩,
    ⟨"ABORT",      0x01000000, 0xFFFFFFFF⟩,
    ⟨"FT_CLEAR",   0x10000000, 0xFFFFFFFF⟩,
    ⟨"FT_INC",     0x11000000, 0xFFFFFF00⟩,
    ⟨"FT_COMMIT",  0x12000000, 0xFFFFFFFF⟩,
    ⟨"ENC_INIT",   0x20000000, 0xFFFFFFFF⟩,
    ⟨"ENC_SYM",    0x21000000, 0xFFFFFF00⟩,
    ⟨"ENC_FINISH", 0x22000000, 0xFFFFFFFF⟩,
    ⟨"DEC_INIT",   0x30000000, 0xFFFFFFFF⟩,
    ⟨"DEC_SYM",    0x31000000, 0xFFFFFFFF⟩ ]

/-- The word `w` is of the row `r` (R153). -/
def OpcodeRow.holds (r : OpcodeRow) (w : Word) : Bool := w &&& r.mask == r.matchWord

/-- The row of a command. -/
def Instr.row : Instr → OpcodeRow
  | .nop => ⟨"NOP", 0x00000000, 0xFFFFFFFF⟩
  | .abort => ⟨"ABORT", 0x01000000, 0xFFFFFFFF⟩
  | .ftClear => ⟨"FT_CLEAR", 0x10000000, 0xFFFFFFFF⟩
  | .ftInc _ => ⟨"FT_INC", 0x11000000, 0xFFFFFF00⟩
  | .ftCommit => ⟨"FT_COMMIT", 0x12000000, 0xFFFFFFFF⟩
  | .encInit => ⟨"ENC_INIT", 0x20000000, 0xFFFFFFFF⟩
  | .encSym _ => ⟨"ENC_SYM", 0x21000000, 0xFFFFFF00⟩
  | .encFinish => ⟨"ENC_FINISH", 0x22000000, 0xFFFFFFFF⟩
  | .decInit => ⟨"DEC_INIT", 0x30000000, 0xFFFFFFFF⟩
  | .decSym => ⟨"DEC_SYM", 0x31000000, 0xFFFFFFFF⟩

/-- The word that a table word of `nbits` bits stands for: the bits from `nbits` on are 0, and none lies beyond the one 32-bit word of a
command (R150, R157). -/
def tableWord (nbits w : Nat) : Option Word :=
  if w % 2 ^ nbits < 2 ^ 32 then some (BitVec.ofNat 32 (w % 2 ^ nbits)) else none

/-- The command the decoder reads from a table word. -/
def decodeTableWord (nbits w : Nat) : Option Instr :=
  match tableWord nbits w with
  | some v => (decode v).toOption
  | none => none

end Sys2Proof
end

