-- ==== Sys2Proof/Config.lean ====
section
/-! DEFINITION. Config.lean: what is fixed for one AECI-CORE: the parameters of 00_scope.md R8, the two FIFO capacities of R9, and the
free values of the model (93_implementation_defined.md P1 to P4). An `opaque` constant has no value that a proof could use. -/

namespace Sys2Proof.Config

/-- `MAX_RANGE` (R8). -/
def maxRange : Half := 0xFFFF

/-- `HALF` (R8). -/
def half : Half := 0x8000

/-- `QUARTER` (R8). -/
def quarter : Half := 0x4000

/-- `THREE_QUARTERS` (R8). -/
def threeQuarters : Half := 0xC000

/-- `NSYM`: the alphabet is the byte values 0..255 (R8). -/
def nsym : Nat := 256

/-- `PRIME_BITS`: bits read before the first decoded symbol (R8). -/
def primeBits : Nat := 16

/-- `MAX_TOTAL`: the largest legal total frequency (R8, D10). -/
def maxTotal : Nat := 0x3FFF

/-- The largest value of the 32-bit PENDING counter (R8, R361). -/
def maxPending : Word := 0xFFFFFFFF

/-- The largest value of a 32-bit COUNT entry, where FT_INC saturates (R302). -/
def maxCount : Word := 0xFFFFFFFF

/-- The largest number of renormalization iterations (R367). -/
def maxIterations : Nat := 16

/-- The two capacities of R9, each an integer in 1..65535: a field holds the capacity less one, so that every value of the type is legal. -/
structure Params where
  outDepthLessOne : Fin 65535
  inDepthLessOne : Fin 65535
deriving DecidableEq, Repr

/-- `OUT_DEPTH` (R9). -/
def Params.outDepth (p : Params) : Nat := p.outDepthLessOne.val + 1

/-- `IN_DEPTH` (R9). -/
def Params.inDepth (p : Params) : Nat := p.inDepthLessOne.val + 1

/-- FREE VALUE (log 3): `OUT_DEPTH - 1` of the block that `State.reset` stands for (P1). -/
opaque outDepthLessOne : Fin 65535

/-- FREE VALUE (log 3): `IN_DEPTH - 1` of the block that `State.reset` stands for (P2). -/
opaque inDepthLessOne : Fin 65535

/-- The capacities of the block that `State.reset` stands for. -/
def params : Params := ⟨outDepthLessOne, inDepthLessOne⟩

/-- FREE VALUE (log 4): `COUNT[s]` after the `k`-th reset (R66, P3). -/
opaque resetCount : Nat → Fin 256 → Word

/-- FREE VALUE (log 4): `START[n]` after the `k`-th reset (R66, P4). -/
opaque resetStart : Nat → Fin 257 → Wide

/-- FREE VALUE (log 4): `TOTAL` after the `k`-th reset (R66, P4). -/
opaque resetTotal : Nat → Wide

end Sys2Proof.Config
end

