-- ==== Sys2Proof/Machine/State.lean ====
section
/-! DEFINITION. Machine/State.lean: the state of AECI-CORE, exactly the components of 10_state.md R30, and beside them the model's own
fields: the FIFO capacities (R9), the events still to come (R200), what the host has observed (R211) and the counter of reset draws. -/

namespace Sys2Proof.Machine

open Sys2Proof

/-- `MODE`: which stream the coder registers belong to (R36). -/
inductive Mode where
  | none
  | enc
  | dec
deriving DecidableEq, Repr

/-- An entry of IBL: what a decoder shift subtracts from VALUE, 0x0000, 0x4000 or 0x8000 (R46). -/
inductive Subtrahend where
  | zero
  | quarter
  | half
deriving DecidableEq, Repr

/-- The eight error causes, bits 0 to 7 of ERR in this order (R47, R501). -/
inductive Err where
  /-- bit 0 (R502). -/
  | illegalCmd
  /-- bit 1 (R503). -/
  | cmdBusy
  /-- bit 2 (R504). -/
  | badMode
  /-- bit 3 (R506). -/
  | noModel
  /-- bit 4 (R507). -/
  | zeroFreq
  /-- bit 5 (R508). -/
  | totalRange
  /-- bit 6 (R509). -/
  | pendingOvf
  /-- bit 7 (R510). -/
  | inOverflow
deriving DecidableEq, Repr

/-- One host step: a read or a write of a whole 32-bit register (R101, R201). -/
inductive BusAccess where
  | read (off : Offset)
  | write (off : Offset) (v : Word)
deriving DecidableEq, Repr

/-- What may happen next (R200, R550): a host step, a turn of the engine, or the reset input. -/
inductive Event where
  | host (a : BusAccess)
  | engine
  | reset
deriving DecidableEq, Repr

/-- What one host read returned (R211). -/
structure Reply where
  off : Offset
  value : Word
deriving DecidableEq, Repr

/-- The state. The first block of fields is R30's list, the second the model's own. -/
structure State where
  /-- `LOW` (R32). -/
  low : Half
  /-- `HIGH` (R33). -/
  high : Half
  /-- `VALUE` (R34). -/
  value : Half
  /-- `PENDING` (R35). -/
  pending : Word
  /-- `MODE` (R36). -/
  mode : Mode
  /-- `MODEL_VALID` (R37). -/
  modelValid : Bool
  /-- `RESULT` (R38). -/
  result : Byte
  /-- `RESULT_VALID` (R38). -/
  resultValid : Bool
  /-- `TOTAL` (R39). -/
  total : Wide
  /-- `COUNT[0..255]` (R40). -/
  count : Vector Word 256
  /-- `START[0..256]` (R41). -/
  start : Vector Wide 257
  /-- `OACC` (R43). -/
  oacc : Byte
  /-- `ONB`, 0..7 (R43). -/
  onb : Fin 8
  /-- `ICACHE` (R44). -/
  icache : Byte
  /-- `INB`, 0..8 (R44). -/
  inb : Fin 9
  /-- `OUT`, oldest byte first (R45). -/
  outQ : List Byte
  /-- `IN`, oldest byte first (R45). -/
  inQ : List Byte
  /-- `EOS` (R45). -/
  eos : Bool
  /-- `OBL`, the next bit to be packed first (R46). -/
  obl : List Bool
  /-- `IBL`, the next shift first (R46). -/
  ibl : List Subtrahend
  /-- `ERR` (R47). -/
  err : Byte
  /-- `ERR_CMD` (R48). -/
  errCmd : Word
  /-- Model's own: OUT_DEPTH and IN_DEPTH (R9), which no step changes (log 3). -/
  params : Config.Params
  /-- Model's own: the events still to come, next one first (R200, R201; log 1). -/
  agenda : List Event
  /-- Model's own: what the host's reads returned, oldest first (R211; log 2). -/
  trace : List Reply
  /-- Model's own: how many resets have drawn the unspecified table (log 4). -/
  draws : Nat
deriving DecidableEq, Repr

/-- Why the machine stops with a fault: never. Every error of the block is a defined transition (R500, R513, R523; log 15), so this type has
no constructor. -/
inductive Fault where
deriving DecidableEq, Repr

/-- Why an instruction is refused. -/
inductive Refusal where
  /-- The instruction has no meaning in the model yet. Raised by no arm of `exec` now; safe. -/
  | notModelled (mnemonic : String)
deriving DecidableEq, Repr

/-- The values of R66, the unspecified table entries being the free values of draw `k` (P3, P4; log 4). Reset is the block's: the capacities,
what the host still does and what it has observed are not the block's and are kept (log 12). -/
def resetState (k : Nat) (params : Config.Params) (agenda : List Event) (trace : List Reply) : State where
  low := 0x0000
  high := 0xFFFF
  value := 0x0000
  pending := 0
  mode := .none
  modelValid := false
  result := 0x00
  resultValid := false
  total := Config.resetTotal k
  count := Vector.ofFn (Config.resetCount k)
  start := Vector.ofFn (Config.resetStart k)
  oacc := 0
  onb := 0
  icache := 0
  inb := 0
  outQ := []
  inQ := []
  eos := false
  obl := []
  ibl := []
  err := 0
  errCmd := 0
  params := params
  agenda := agenda
  trace := trace
  draws := k + 1

/-- The machine right after reset (R66, R551), for any legal capacities, with nothing to come and nothing observed. -/
def State.reset : State := resetState 0 Config.params [] []

end Sys2Proof.Machine
end

