-- ==== Sys2Proof/Machine/Operands.lean ====
section
/-! DEFINITION. Machine/Operands.lean: the operand forms. A command has one, SYM, an index into COUNT and START (30_encoding.md R152). A bus
access has one, a 12-bit offset that selects a register (20_memory.md R101, 10_state.md R49). -/

namespace Sys2Proof.Machine

open Sys2Proof

/-- `COUNT[s]` as an exact integer (R11, R152). -/
def State.countOf (s : State) (sym : Byte) : Nat := (s.count[sym.toNat]'(sym.isLt)).toNat

/-- `START[s]` of a symbol as an exact integer (R11, R152). -/
def State.startOf (s : State) (sym : Byte) : Nat := (s.start[sym.toNat]'(Nat.lt_succ_of_lt sym.isLt)).toNat

/-- `COUNT[s] <- v` (R12). -/
def State.setCount (s : State) (sym : Byte) (v : Word) : State := { s with count := s.count.set sym.toNat v sym.isLt }

/-- The value a subtrahend stands for (R46). -/
def Subtrahend.val : Subtrahend → Half
  | .zero => 0x0000
  | .quarter => Config.quarter
  | .half => Config.half

/-- The registers of the map of R49. -/
inductive Register where
  | cmd
  | status
  | err
  | errCmd
  | low
  | high
  | value
  | pending
  | totalLo
  | totalHi
  | result
  | bitstate
  | outData
  | inData
  | fifoStat
  | inCtrl
  | cfg0
  | cfg1
  | count (sym : Byte)
  | start (n : Fin 257)
  | reserved
deriving DecidableEq, Repr

/-- The registers below offset 0x048, by word index (R49). -/
def lowRegister : Nat → Register
  | 0 => .cmd
  | 1 => .status
  | 2 => .err
  | 3 => .errCmd
  | 4 => .low
  | 5 => .high
  | 6 => .value
  | 7 => .pending
  | 8 => .totalLo
  | 9 => .totalHi
  | 10 => .result
  | 11 => .bitstate
  | 12 => .outData
  | 13 => .inData
  | 14 => .fifoStat
  | 15 => .inCtrl
  | 16 => .cfg0
  | 17 => .cfg1
  | _ => .reserved

/-- The register of a word index, `off[11:2]` (R49). -/
def registerOfIndex (index : Nat) : Register :=
  if 0x100 ≤ index ∧ index < 0x200 then .count (BitVec.ofNat 8 (index - 0x100))
  else if h : 0x200 ≤ index ∧ index < 0x301 then .start ⟨index - 0x200, by omega⟩
  else lowRegister index

/-- The register that an offset selects, by its word index; bits 1:0 are ignored (R49, R101). -/
def registerAt (off : Offset) : Register := registerOfIndex (off.toNat / 4)

end Sys2Proof.Machine
end

