-- ==== Sys2Proof/Machine/Flags.lean ====
section
/-! DEFINITION. Machine/Flags.lean: every status field the block computes (10_state.md R52), the bits of ERR (R47), and the registers that a
read puts together from the state (R50, R57, R60). -/

namespace Sys2Proof.Machine

open Sys2Proof

/-- BUSY: a backlog is not empty (R46, R52). -/
def State.busy (s : State) : Bool := !s.obl.isEmpty || !s.ibl.isEmpty

/-- IN_WAIT, the input hold (R52, R206). -/
def State.inWait (s : State) : Bool := !s.ibl.isEmpty && s.inb == 0 && s.inQ.isEmpty && !s.eos

/-- OUT_WAIT, the output hold (R52, R206). -/
def State.outWait (s : State) : Bool := !s.obl.isEmpty && s.onb == 7 && s.outQ.length == s.params.outDepth

/-- ERR_ANY (R52). -/
def State.errAny (s : State) : Bool := s.err != 0

/-- MODE as STATUS[2:1] shows it (R36). -/
def Mode.bits : Mode → BitVec 2
  | .none => 0
  | .enc => 1
  | .dec => 2

/-- STATUS (R52): from bit 31 down, `0`, EOS, ERR_ANY, OUT_WAIT, IN_WAIT, RESULT_VALID, MODEL_VALID, MODE, BUSY. -/
def State.statusWord (s : State) : Word :=
  (0 : BitVec 23) ++ BitVec.ofBool s.eos ++ BitVec.ofBool s.errAny ++ BitVec.ofBool s.outWait ++ BitVec.ofBool s.inWait
    ++ BitVec.ofBool s.resultValid ++ BitVec.ofBool s.modelValid ++ s.mode.bits ++ BitVec.ofBool s.busy

/-- The bit of ERR a cause sets (R47, R501). -/
def Err.bit : Err → Nat
  | .illegalCmd => 0
  | .cmdBusy => 1
  | .badMode => 2
  | .noModel => 3
  | .zeroFreq => 4
  | .totalRange => 5
  | .pendingOvf => 6
  | .inOverflow => 7

/-- ERR with one more bit set; bits already set stay set (R505). -/
def setErrBit (err : Byte) (e : Err) : Byte := err ||| (1#8 <<< e.bit)

/-- ERR after a write of `v`: write-one-to-clear of bits 7:0, bits 31:8 ignored (R53). -/
def clearErrBits (err : Byte) (v : Word) : Byte := err &&& ~~~(v.setWidth 8)

/-- BITSTATE (R57). -/
def State.bitstateWord (s : State) : Word :=
  (0 : BitVec 4) ++ BitVec.ofNat 4 s.inb.val ++ s.icache ++ (0 : BitVec 4) ++ BitVec.ofNat 4 s.onb.val ++ s.oacc

/-- FIFO_STAT (R60). -/
def State.fifoStatWord (s : State) : Word := BitVec.ofNat 16 s.inQ.length ++ BitVec.ofNat 16 s.outQ.length

/-- CFG0 (R50). -/
def State.cfg0Word (s : State) : Word := BitVec.ofNat 16 s.params.inDepth ++ BitVec.ofNat 16 s.params.outDepth

/-- CFG1 (R50). -/
def cfg1Word : Word := 0x00103FFF

/-- What a read of OUT_DATA returns (R58, R259). -/
def State.outDataWord (s : State) : Word :=
  match s.outQ with
  | [] => 0
  | b :: _ => (0 : BitVec 23) ++ (1 : BitVec 1) ++ b

end Sys2Proof.Machine
end

