-- ==== Sys2Proof/Machine/Ops.lean ====
section
/-! DEFINITION. Machine/Ops.lean: the shared operations. Raising an error is the block's whole exception mechanism (60_exceptions.md R500,
R505, R524: nothing is saved and control goes nowhere; R525: there is no return), written once here with its priority order (R511). Beside it
stand the FIFO and bit-stream operations (41_bitstream.md). -/

namespace Sys2Proof.Machine

open Sys2Proof

/-- `raise ERR_X(w)` (R505): the sticky bit is set and, but for IN_OVERFLOW, ERR_CMD takes the command word. -/
def State.raise (s : State) (e : Err) (w : Word) : State :=
  { s with err := setErrBit s.err e, errCmd := if e = .inOverflow then s.errCmd else w }

/-- The MODE a command must find (R504, R511 step 3). -/
def requiredMode : Instr → Option Mode
  | .nop => none
  | .abort => none
  | .ftClear => none
  | .ftInc _ => none
  | .ftCommit => none
  | .encInit => none
  | .encSym _ => some .enc
  | .encFinish => some .enc
  | .decInit => none
  | .decSym => some .dec

/-- The command needs MODEL_VALID = 1 (R506, R511 step 4). -/
def needsModel : Instr → Bool
  | .nop => false
  | .abort => false
  | .ftClear => false
  | .ftInc _ => false
  | .ftCommit => false
  | .encInit => true
  | .encSym _ => true
  | .encFinish => false
  | .decInit => true
  | .decSym => true

/-- The symbol whose count must not be 0 (R507, R511 step 5). -/
def codedSymbol : Instr → Option Byte
  | .nop => none
  | .abort => none
  | .ftClear => none
  | .ftInc _ => none
  | .ftCommit => none
  | .encInit => none
  | .encSym sym => some sym
  | .encFinish => none
  | .decInit => none
  | .decSym => none

/-- MODE is not the one the command needs. -/
def State.wrongMode (s : State) (c : Instr) : Bool :=
  match requiredMode c with
  | some m => s.mode != m
  | none => false

/-- The command codes a symbol whose count is 0. -/
def State.zeroCount (s : State) (c : Instr) : Bool :=
  match codedSymbol c with
  | some sym => s.countOf sym == 0
  | none => false

/-- The first error of a command that decoded, in the order of R511: steps 1, 3, 4, 5 (step 2 is the decoder's, step 6 the issue function's).
Step 1 stands here too, so that a meaning alone is what its command's rule says (log 10). -/
def firstError (c : Instr) (s : State) : Option Err :=
  if s.busy then some .cmdBusy
  else if s.wrongMode c then some .badMode
  else if needsModel c && !s.modelValid then some .noModel
  else if s.zeroCount c then some .zeroFreq
  else none

/-- `Issue` of a command that decoded (R203): its first error is raised and nothing else happens (R512), or its issue function runs. The word
recorded is the command's own, which is the one written, since decoding loses nothing (log 11). -/
def State.issue (s : State) (c : Instr) (effect : State → State) : State :=
  match firstError c s with
  | some e => s.raise e (encode c)
  | none => effect s

/-- `PutBit(b)` (R252): append a bit to OACC, MSB-first; the eighth bit pushes the byte into OUT. -/
def State.putBit (s : State) (b : Bool) : State :=
  let acc := s.oacc <<< 1 ||| (BitVec.ofBool b).setWidth 8
  if s.onb = 7 then { s with outQ := s.outQ ++ [acc], oacc := 0, onb := 0 }
  else { s with oacc := acc, onb := s.onb + 1 }

/-- The last two lines of `GetBit` (R254): count INB down and read the bit of ICACHE it then names. -/
def State.takeCachedBit (s : State) : Bool × State :=
  let n := s.inb.val - 1
  (s.icache.getLsbD n, { s with inb := ⟨n, by have := s.inb.isLt; omega⟩ })

/-- `GetBit()` (R254): a cached bit, refilling ICACHE from IN when none is left; past the end of IN it is 0 and nothing changes (R255). -/
def State.getBit (s : State) : Bool × State :=
  if s.inb = 0 then
    match s.inQ with
    | b :: rest => { s with icache := b, inb := 8, inQ := rest }.takeCachedBit
    | [] => (false, s)
  else s.takeCachedBit

/-- One shift of the decoder value: subtract, shift in a bit, keep 16 bits (R402). -/
def shiftValue (v : Half) (c : Subtrahend) (bit : Bool) : Half := (v - c.val) <<< 1 ||| (BitVec.ofBool bit).setWidth 16

/-- `DecShift(c, bit)` (R402). -/
def State.decShift (s : State) (c : Subtrahend) (bit : Bool) : State := { s with value := shiftValue s.value c bit }

/-- The host's pop of OUT, the side effect of reading OUT_DATA (R259). -/
def State.popOut (s : State) : State := { s with outQ := s.outQ.tail }

/-- The host's push into IN, or IN_OVERFLOW when it is full (R260). -/
def State.pushIn (s : State) (b : Byte) : State :=
  if s.inQ.length < s.params.inDepth then { s with inQ := s.inQ ++ [b] }
  else s.raise .inOverflow 0

/-- The host has seen a read return `v` (R211). -/
def State.observe (s : State) (off : Offset) (v : Word) : State := { s with trace := s.trace ++ [⟨off, v⟩] }

end Sys2Proof.Machine
end

