-- ==== Sys2Proof/Machine/Control.lean ====
section
/-! DEFINITION. Machine/Control.lean: the control commands NOP and ABORT (40_command_model.md R212, R213). -/

namespace Sys2Proof.Machine

open Sys2Proof

/-- NOP (R212): its issue function is empty. -/
def execNop (s : State) : Host.Outcome State Fault Refusal := .next (s.issue .nop id)

/-- ABORT's issue function (R213), in every MODE and whatever the FIFOs hold (log 18). -/
def abortEffect (s : State) : State :=
  { s with
    mode := .none, low := 0x0000, high := 0xFFFF, value := 0x0000, pending := 0
    oacc := 0, onb := 0, icache := 0, inb := 0
    outQ := [], inQ := [], eos := false, resultValid := false }

/-- ABORT (R213). -/
def execAbort (s : State) : Host.Outcome State Fault Refusal := .next (s.issue .abort abortEffect)

end Sys2Proof.Machine
end

