-- ==== Sys2Proof/Machine/Coder.lean ====
section
/-! DEFINITION. Machine/Coder.lean: the arithmetic of the range coder, shared by the encoder and the decoder: the cumulative starts
(42_frequency_model.md R303), Narrow (R305), Lookup (R307), FreqVal (44_range_decoder.md R403) and the renormalization state machine
(43_range_encoder.md R353 to R360, 44_range_decoder.md R405). Integers are exact (00_scope.md R11). -/

namespace Sys2Proof.Machine

open Sys2Proof

/-- `sum(counts[0..n))` (R41, R303). -/
def cumulative (count : Vector Word 256) (n : Nat) : Nat := ((count.toList.take n).map BitVec.toNat).sum

/-- The starts FT_COMMIT derives (R303). -/
def derivedStarts (count : Vector Word 256) : Vector Wide 257 := Vector.ofFn fun n => BitVec.ofNat 40 (cumulative count n.val)

/-- `R = high - low + 1` (R305, R351). -/
def rangeOf (low high : Half) : Nat := high.toNat - low.toNat + 1

/-- `Narrow(s, low, high)` (R305). The bounds fit in 16 bits (R306, R356); log 9 is about states that no run reaches. -/
def State.narrow (s : State) (sym : Byte) (low high : Half) : Half × Half :=
  let r := rangeOf low high
  let nl := low.toNat + r * s.startOf sym / s.total.toNat
  let nh := low.toNat + r * (s.startOf sym + s.countOf sym) / s.total.toNat - 1
  (BitVec.ofNat 16 nl, BitVec.ofNat 16 nh)

/-- `START[s] <= fv < START[s] + COUNT[s]` (R307). -/
def State.covers (s : State) (fv : Nat) (sym : Byte) : Bool :=
  decide (s.startOf sym ≤ fv ∧ fv < s.startOf sym + s.countOf sym)

/-- The 256 symbols. -/
def symbols : List Byte := (List.range 256).map (BitVec.ofNat 8)

/-- `Lookup(fv)` (R307): the symbol whose half-open interval holds `fv`. It is unique (R308), so the order of the search does not matter (D30). In
a state that no run reaches there may be none, and symbol 0 is answered (log 8). -/
def State.lookup (s : State) (fv : Nat) : Byte := (symbols.find? (s.covers fv)).getD 0

/-- `FreqVal()` (R403), with the clamp of R404. -/
def State.freqVal (s : State) : Nat :=
  let scaled := (s.value.toNat - s.low.toNat + 1) * s.total.toNat - 1
  let fv := scaled / rangeOf s.low s.high
  if fv > s.total.toNat - 1 then s.total.toNat - 1 else fv

/-- The three renormalization branches (R353). -/
inductive Branch where
  | e1
  | e2
  | e3
deriving DecidableEq, Repr

/-- The test of the renormalization state machine: the branches in the order E1, E2, E3, or DONE (R353, R359). -/
def branchOf (low high : Half) : Option Branch :=
  if high < Config.half then some .e1
  else if Config.half ≤ low then some .e2
  else if Config.quarter ≤ low ∧ high < Config.threeQuarters then some .e3
  else none

/-- What a branch subtracts from `low`, `high` and, in the decoder, VALUE (R355, R357, R401, R405). -/
def Branch.subtrahend : Branch → Subtrahend
  | .e1 => .zero
  | .e2 => .half
  | .e3 => .quarter

/-- The lower bound after a branch and SHIFT: subtract, then shift a 0 in (R355, R357, R358). -/
def Branch.nextLow (b : Branch) (low : Half) : Half := (low - b.subtrahend.val) <<< 1

/-- The upper bound after a branch and SHIFT: subtract, then shift a 1 in (R355, R357, R358). -/
def Branch.nextHigh (b : Branch) (high : Half) : Half := (high - b.subtrahend.val) <<< 1 ||| 1

/-- What RenormEnc returns (R360). -/
structure EncResult where
  low : Half
  high : Half
  pending : Word
  bits : List Bool
deriving DecidableEq, Repr

/-- A branch's bit and the pending bits it resolves (R354, R355). -/
def resolved (bit : Bool) (pending : Word) : List Bool := bit :: List.replicate pending.toNat (!bit)

/-- RenormEnc's loop (R360): `none` is OVERFLOW (R361). The first argument bounds the iterations (R367; log 7). -/
def renormEncLoop : Nat → Half → Half → Word → List Bool → Option EncResult
  | 0, low, high, pending, bits => some ⟨low, high, pending, bits⟩
  | n + 1, low, high, pending, bits =>
    match branchOf low high with
    | none => some ⟨low, high, pending, bits⟩
    | some .e1 => renormEncLoop n (Branch.e1.nextLow low) (Branch.e1.nextHigh high) 0 (bits ++ resolved false pending)
    | some .e2 => renormEncLoop n (Branch.e2.nextLow low) (Branch.e2.nextHigh high) 0 (bits ++ resolved true pending)
    | some .e3 =>
      if pending = Config.maxPending then none
      else renormEncLoop n (Branch.e3.nextLow low) (Branch.e3.nextHigh high) (pending + 1) bits

/-- `RenormEnc(low, high, pending)` (R360). -/
def renormEnc (low high : Half) (pending : Word) : Option EncResult := renormEncLoop Config.maxIterations low high pending []

/-- What RenormDec returns (R405). -/
structure DecResult where
  low : Half
  high : Half
  subs : List Subtrahend
deriving DecidableEq, Repr

/-- RenormDec's loop (R405), bounded as RenormEnc's (R367; log 7). -/
def renormDecLoop : Nat → Half → Half → List Subtrahend → DecResult
  | 0, low, high, subs => ⟨low, high, subs⟩
  | n + 1, low, high, subs =>
    match branchOf low high with
    | none => ⟨low, high, subs⟩
    | some b => renormDecLoop n (b.nextLow low) (b.nextHigh high) (subs ++ [b.subtrahend])

/-- `RenormDec(low, high)` (R405). -/
def renormDec (low high : Half) : DecResult := renormDecLoop Config.maxIterations low high []

end Sys2Proof.Machine
end

