-- ==== Sys2Proof/Machine/Decoder.lean ====
section
/-! DEFINITION. Machine/Decoder.lean: the decoder commands DEC_INIT and DEC_SYM (44_range_decoder.md R406, R407). -/

namespace Sys2Proof.Machine

open Sys2Proof

/-- DEC_INIT's issue function (R406). -/
def decInitEffect (s : State) : State :=
  { s with
    low := 0x0000, high := Config.maxRange, value := 0x0000, icache := 0, inb := 0
    resultValid := false, mode := .dec, ibl := List.replicate Config.primeBits .zero }

/-- DEC_INIT (R406). -/
def execDecInit (s : State) : Host.Outcome State Fault Refusal := .next (s.issue .decInit decInitEffect)

/-- DEC_SYM's issue function (R407). -/
def decSymEffect (s : State) : State :=
  let sym := s.lookup s.freqVal
  let narrowed := s.narrow sym s.low s.high
  let r := renormDec narrowed.1 narrowed.2
  { s with low := r.low, high := r.high, result := sym, resultValid := true, ibl := r.subs }

/-- DEC_SYM (R407). -/
def execDecSym (s : State) : Host.Outcome State Fault Refusal := .next (s.issue .decSym decSymEffect)

end Sys2Proof.Machine
end

