-- ==== Sys2Proof/Machine/Encoder.lean ====
section
/-! DEFINITION. Machine/Encoder.lean: the encoder commands ENC_INIT, ENC_SYM and ENC_FINISH (43_range_encoder.md R362 to R364). -/

namespace Sys2Proof.Machine

open Sys2Proof

/-- ENC_INIT's issue function (R362). -/
def encInitEffect (s : State) : State :=
  { s with low := 0x0000, high := Config.maxRange, pending := 0, oacc := 0, onb := 0, mode := .enc }

/-- ENC_INIT (R362). -/
def execEncInit (s : State) : Host.Outcome State Fault Refusal := .next (s.issue .encInit encInitEffect)

/-- A pending overflow inside a command (R361, R512): MODE becomes NONE, the error is raised, nothing else changes. -/
def State.overflowPending (s : State) (c : Instr) : State := { s with mode := .none }.raise .pendingOvf (encode c)

/-- ENC_SYM's issue function (R363). -/
def encSymEffect (sym : Byte) (s : State) : State :=
  let narrowed := s.narrow sym s.low s.high
  match renormEnc narrowed.1 narrowed.2 s.pending with
  | none => s.overflowPending (.encSym sym)
  | some r => { s with low := r.low, high := r.high, pending := r.pending, obl := r.bits }

/-- ENC_SYM s (R363). -/
def execEncSym (sym : Byte) (s : State) : Host.Outcome State Fault Refusal := .next (s.issue (.encSym sym) (encSymEffect sym))

/-- The terminating bits (R364): `pending` is incremented once more, then `0` and that many ones, or `1` and that many zeros. -/
def finishBits (low : Half) (pending : Word) : List Bool :=
  if low < Config.quarter then false :: List.replicate (pending.toNat + 1) true
  else true :: List.replicate (pending.toNat + 1) false

/-- The zero bits that complete the last byte when the packer will hold `k` bits (R253, R364). -/
def padBits (k : Nat) : List Bool := List.replicate ((8 - k) % 8) false

/-- ENC_FINISH's issue function (R364). -/
def encFinishEffect (s : State) : State :=
  if s.pending = Config.maxPending then s.overflowPending .encFinish
  else
    let bits := finishBits s.low s.pending
    let k := (s.onb.val + bits.length) % 8
    { s with obl := bits ++ padBits k, pending := 0, mode := .none }

/-- ENC_FINISH (R364). -/
def execEncFinish (s : State) : Host.Outcome State Fault Refusal := .next (s.issue .encFinish encFinishEffect)

end Sys2Proof.Machine
end

