-- ==== Sys2Proof/Machine/FreqTable.lean ====
section
/-! DEFINITION. Machine/FreqTable.lean: the frequency table commands FT_CLEAR, FT_INC and FT_COMMIT (42_frequency_model.md R301 to R303). -/

namespace Sys2Proof.Machine

open Sys2Proof

/-- FT_CLEAR's issue function (R301). -/
def ftClearEffect (s : State) : State := { s with count := Vector.replicate 256 0, modelValid := false }

/-- FT_CLEAR (R301). -/
def execFtClear (s : State) : Host.Outcome State Fault Refusal := .next (s.issue .ftClear ftClearEffect)

/-- `min(c + 1, 0xFFFFFFFF)` (R302). -/
def saturatingInc (c : Word) : Word := if c = Config.maxCount then c else c + 1

/-- FT_INC's issue function (R302). -/
def ftIncEffect (sym : Byte) (s : State) : State :=
  { s.setCount sym (saturatingInc (s.count[sym.toNat]'(sym.isLt))) with modelValid := false }

/-- FT_INC s (R302). -/
def execFtInc (sym : Byte) (s : State) : Host.Outcome State Fault Refusal := .next (s.issue (.ftInc sym) (ftIncEffect sym))

/-- FT_COMMIT's issue function (R303): the starts and the total are written even when the total is refused. -/
def ftCommitEffect (s : State) : State :=
  let acc := cumulative s.count 256
  let t := { s with start := derivedStarts s.count, total := BitVec.ofNat 40 acc }
  if acc = 0 then { t with modelValid := false }
  else if acc > Config.maxTotal then { t with modelValid := false }.raise .totalRange (encode .ftCommit)
  else { t with modelValid := true }

/-- FT_COMMIT (R303). -/
def execFtCommit (s : State) : Host.Outcome State Fault Refusal := .next (s.issue .ftCommit ftCommitEffect)

end Sys2Proof.Machine
end

