-- ==== Sys2Proof/Machine/Dispatch.lean ====
section
/-! DEFINITION. Machine/Dispatch.lean: one arm per command, each one call of its meaning. -/

namespace Sys2Proof.Machine

open Sys2Proof

def exec (i : Instr) (s : State) : Host.Outcome State Fault Refusal :=
  match i with
  | .nop => Sys2Proof.Machine.execNop s
  | .abort => Sys2Proof.Machine.execAbort s
  | .ftClear => Sys2Proof.Machine.execFtClear s
  | .ftInc sym => Sys2Proof.Machine.execFtInc sym s
  | .ftCommit => Sys2Proof.Machine.execFtCommit s
  | .encInit => Sys2Proof.Machine.execEncInit s
  | .encSym sym => Sys2Proof.Machine.execEncSym sym s
  | .encFinish => Sys2Proof.Machine.execEncFinish s
  | .decInit => Sys2Proof.Machine.execDecInit s
  | .decSym => Sys2Proof.Machine.execDecSym s

end Sys2Proof.Machine
end

