-- ==== Sys2Proof/Machine/Bus.lean ====
section
/-! DEFINITION. Machine/Bus.lean: the host's steps: the command port (40_command_model.md R202, R203) and the reads and writes of the register
space (20_memory.md R102, R103; 10_state.md R49 to R65). -/

namespace Sys2Proof.Machine

open Sys2Proof

/-- `Issue(w)` (R203). -/
def issueWord (w : Word) (s : State) : Host.Outcome State Fault Refusal :=
  match decode w with
  | .error _ => .next (s.raise .illegalCmd w)
  | .ok c => exec c s

/-- The command port (R202): a word written while BUSY is dropped with ERR_CMD_BUSY, any other is issued. -/
def commandPort (w : Word) (s : State) : Host.Outcome State Fault Refusal :=
  if s.busy then .next (s.raise .cmdBusy w) else issueWord w s

/-- The value a read of a register returns (R49 to R64). -/
def State.regValue (s : State) : Register → Word
  | .cmd => 0
  | .status => s.statusWord
  | .err => s.err.setWidth 32
  | .errCmd => s.errCmd
  | .low => s.low.setWidth 32
  | .high => s.high.setWidth 32
  | .value => s.value.setWidth 32
  | .pending => s.pending
  | .totalLo => s.total.extractLsb' 0 32
  | .totalHi => (s.total.extractLsb' 32 8).setWidth 32
  | .result => s.result.setWidth 32
  | .bitstate => s.bitstateWord
  | .outData => s.outDataWord
  | .inData => 0
  | .fifoStat => s.fifoStatWord
  | .inCtrl => (BitVec.ofBool s.eos).setWidth 32
  | .cfg0 => s.cfg0Word
  | .cfg1 => cfg1Word
  | .count sym => s.count[sym.toNat]'(sym.isLt)
  | .start n => (s.start[n.val]'(n.isLt)).extractLsb' 0 32
  | .reserved => 0

/-- The side effect of a read: OUT_DATA pops, no other read changes anything (R102, R105). -/
def State.afterRead (s : State) (r : Register) : State := if r = .outData then s.popOut else s

/-- `MemRead(off, 4)` (R102): the value comes from the state before the step. -/
def busRead (off : Offset) (s : State) : State :=
  (s.afterRead (registerAt off)).observe off (s.regValue (registerAt off))

/-- `MemWrite(off, 4, v)` (R103). -/
def busWrite (off : Offset) (v : Word) (s : State) : Host.Outcome State Fault Refusal :=
  match registerAt off with
  | .cmd => commandPort v s
  | .err => .next { s with err := clearErrBits s.err v }
  | .inData => .next (s.pushIn (v.setWidth 8))
  | .inCtrl => .next { s with eos := v.getLsbD 0 }
  | .count sym => .next { s.setCount sym v with modelValid := false }
  | .status => .next s
  | .errCmd => .next s
  | .low => .next s
  | .high => .next s
  | .value => .next s
  | .pending => .next s
  | .totalLo => .next s
  | .totalHi => .next s
  | .result => .next s
  | .bitstate => .next s
  | .outData => .next s
  | .fifoStat => .next s
  | .cfg0 => .next s
  | .cfg1 => .next s
  | .start _ => .next s
  | .reserved => .next s

end Sys2Proof.Machine
end

