-- ==== Sys2Proof/Machine/Engine.lean ====
section
/-! DEFINITION. Machine/Engine.lean: the engine's two kinds of step (40_command_model.md R205) and its turn. -/

namespace Sys2Proof.Machine

open Sys2Proof

/-- PutStep is enabled (R205): bits are left, and the packer is not about to push into a full OUT. -/
def State.putEnabled (s : State) : Bool := !s.obl.isEmpty && !(s.onb == 7 && s.outQ.length == s.params.outDepth)

/-- GetStep is enabled (R205): shifts are left, and there is a cached bit, a byte in IN, or EOS. -/
def State.getEnabled (s : State) : Bool := !s.ibl.isEmpty && (s.inb != 0 || !s.inQ.isEmpty || s.eos)

/-- PutStep (R205). -/
def State.putStep (s : State) : State :=
  match s.obl with
  | [] => s
  | b :: rest => { s with obl := rest }.putBit b

/-- GetStep (R205). -/
def State.getStep (s : State) : State :=
  match s.ibl with
  | [] => s
  | c :: rest =>
    let got := { s with ibl := rest }.getBit
    got.2.decShift c got.1

/-- The engine has a step it can take. -/
def State.engineEnabled (s : State) : Bool := s.putEnabled || s.getEnabled

/-- The engine's turn: its enabled step, or nothing when it has none, that is when it is idle or held (R205, R206; logs 5, 6). -/
def State.engineTurn (s : State) : State :=
  if s.putEnabled then s.putStep else if s.getEnabled then s.getStep else s

/-- The reset input (R550): every component takes its value of R66, whatever was going on. -/
def State.applyReset (s : State) : State := resetState s.draws s.params s.agenda s.trace

end Sys2Proof.Machine
end

