-- ==== Sys2Proof/Machine/Step.lean ====
section
/-! DEFINITION. Machine/Step.lean: one step of the machine. The block fetches nothing (10_state.md R31): the next thing that happens is the head of
the agenda (40_command_model.md R200, R201; log 1). -/

namespace Sys2Proof.Machine

open Sys2Proof

/-- What one event does. -/
def perform (e : Event) (s : State) : Host.Outcome State Fault Refusal :=
  match e with
  | .host (.read off) => .next (busRead off s)
  | .host (.write off v) => busWrite off v s
  | .engine => .next s.engineTurn
  | .reset => .next s.applyReset

/-- One step: the next event of the agenda, or, when the host has taken its last step, a turn of the engine (R211). Runs in which the host goes on for
ever, and fairness (R209), are in Schedule.lean. -/
def step (s : State) : Host.Outcome State Fault Refusal :=
  match s.agenda with
  | [] => .next s.engineTurn
  | e :: rest => perform e { s with agenda := rest }

/-- `s` with one more event put before the others: the host's write of the table word to CMD, at offset 0x000 (R51, R158; log 13). -/
def State.withFetchWord (s : State) (nbits w : Nat) : State :=
  { s with agenda := .host (.write 0x000 (BitVec.ofNat 32 (w % 2 ^ nbits))) :: s.agenda }

end Sys2Proof.Machine
end

