-- ==== Sys2Proof/Machine/Container.lean ====
section
/-! DEFINITION. Machine/Container.lean: the container the host builds and reads (20_memory.md R108 to R111). It is host software, outside the
block (00_scope.md R6, D26); nothing in the machine uses this file. Multi-byte fields are little-endian (C1), bytes are unsigned (R109). -/

namespace Sys2Proof.Machine

open Sys2Proof

/-- A container: header and body (R108). -/
structure Container where
  totalSymbolCount : BitVec 64
  counts : Vector Word 256
  body : List Byte
deriving DecidableEq, Repr

/-- The `n` bytes of a value, least significant first (R108). -/
def littleEndian : Nat → Nat → List Byte
  | 0, _ => []
  | n + 1, v => BitVec.ofNat 8 v :: littleEndian n (v / 256)

/-- The value of bytes, least significant first (R108). -/
def fromLittleEndian : List Byte → Nat
  | [] => 0
  | b :: rest => b.toNat + 256 * fromLittleEndian rest

/-- The container's bytes (R108). -/
def Container.toBytes (c : Container) : List Byte :=
  littleEndian 8 c.totalSymbolCount.toNat ++ c.counts.toList.flatMap (fun v => littleEndian 4 v.toNat) ++ c.body

/-- The container of a byte list, if it is long enough to hold a header (R108). -/
def Container.ofBytes (bs : List Byte) : Option Container :=
  if bs.length < 1032 then none
  else some
    { totalSymbolCount := BitVec.ofNat 64 (fromLittleEndian (bs.take 8))
      counts := Vector.ofFn fun s => BitVec.ofNat 32 (fromLittleEndian ((bs.drop (8 + 4 * s.val)).take 4))
      body := bs.drop 1032 }

/-- What the host writes after an encode: the number of input bytes, their counts, and the bytes it popped (R110). -/
def Container.ofEncode (data body : List Byte) : Container :=
  { totalSymbolCount := BitVec.ofNat 64 data.length
    counts := Vector.ofFn fun s => BitVec.ofNat 32 (data.count (BitVec.ofNat 8 s.val))
    body := body }

/-- The host's check of a container it is to decode: the counts sum to `total_symbol_count` (R111, D26). -/
def Container.consistent (c : Container) : Bool := (c.counts.toList.map BitVec.toNat).sum == c.totalSymbolCount.toNat

end Sys2Proof.Machine
end

