-- ==== Sys2Proof/Machine/HostProgram.lean ====
section
/-! DEFINITION. Machine/HostProgram.lean: the lines of a host program and what they assemble to (30_encoding.md R158 to R160), and the two
programs the spec gives the host (70_reset_and_hazards.md R553, 20_memory.md R111). A program is the host's, not the block's: what it
becomes here is a list of events for the agenda. A line's numbers are plain naturals, as written; WellFormed.lean checks them. -/

namespace Sys2Proof.Machine

open Sys2Proof

/-- `<sym>`: a number, decimal or hexadecimal, or a character literal (R158). -/
inductive SymLit where
  | number (n : Nat)
  | char (c : Char)
deriving DecidableEq, Repr

/-- The symbol it stands for; a character stands for its ASCII code (R158, G1; log 17). -/
def SymLit.code : SymLit → Nat
  | .number n => n
  | .char c => c.toNat

/-- `<reg>`: a name of the register map, `COUNT[<sym>]`, `START[<n>]` or `@<offset>` (R159). -/
inductive RegRef where
  | name (r : Register)
  | count (sym : SymLit)
  | start (n : Nat)
  | raw (off : Nat)
deriving DecidableEq, Repr

/-- The byte offset of a register (R49); a reserved register has none of its own, and its name stands in no line. -/
def Register.offset : Register → Nat
  | .cmd => 0x000
  | .status => 0x004
  | .err => 0x008
  | .errCmd => 0x00C
  | .low => 0x010
  | .high => 0x014
  | .value => 0x018
  | .pending => 0x01C
  | .totalLo => 0x020
  | .totalHi => 0x024
  | .result => 0x028
  | .bitstate => 0x02C
  | .outData => 0x030
  | .inData => 0x034
  | .fifoStat => 0x038
  | .inCtrl => 0x03C
  | .cfg0 => 0x040
  | .cfg1 => 0x044
  | .count sym => 0x400 + 4 * sym.toNat
  | .start n => 0x800 + 4 * n.val
  | .reserved => 0xFFC

/-- The offset a `<reg>` stands for (R159). -/
def RegRef.offset : RegRef → Nat
  | .name r => r.offset
  | .count sym => 0x400 + 4 * sym.code
  | .start n => 0x800 + 4 * n
  | .raw off => off

/-- A command line: a mnemonic with its operand, if it takes one (R158). -/
inductive CommandLine where
  | nop
  | abort
  | ftClear
  | ftInc (sym : SymLit)
  | ftCommit
  | encInit
  | encSym (sym : SymLit)
  | encFinish
  | decInit
  | decSym
deriving DecidableEq, Repr

/-- The command of a line. -/
def CommandLine.command : CommandLine → Instr
  | .nop => .nop
  | .abort => .abort
  | .ftClear => .ftClear
  | .ftInc sym => .ftInc (BitVec.ofNat 8 sym.code)
  | .ftCommit => .ftCommit
  | .encInit => .encInit
  | .encSym sym => .encSym (BitVec.ofNat 8 sym.code)
  | .encFinish => .encFinish
  | .decInit => .decInit
  | .decSym => .decSym

/-- A line of a host program: a command line (R158) or a host access (R159). The name that `RD <reg> -> <name>` gives the value is the host's own
and reaches the block in no way. -/
inductive HostLine where
  | command (c : CommandLine)
  | wr (r : RegRef) (v : Nat)
  | rd (r : RegRef)
  | push (b : Nat)
  | pop
  | setEos
deriving DecidableEq, Repr

/-- The bus access a line is (R158, R159). -/
def HostLine.assemble : HostLine → BusAccess
  | .command c => .write 0x000 (encode c.command)
  | .wr r v => .write (BitVec.ofNat 12 r.offset) (BitVec.ofNat 32 v)
  | .rd r => .read (BitVec.ofNat 12 r.offset)
  | .push b => .write 0x034 (BitVec.ofNat 32 b)
  | .pop => .read 0x030
  | .setEos => .write 0x03C 1

/-- `RD STATUS`. -/
def readStatus : HostLine := .rd (.name .status)

/-- `WAIT_IDLE`, unrolled to the number of passes its loop took (R160; log 16). -/
def waitIdle (passes : Nat) : List HostLine := List.replicate passes readStatus

/-- The values the passes of one `WAIT_IDLE` read fit its loop: BUSY in all but the last, not in the last (R160). -/
def waitIdleFits : List Word → Bool
  | [] => false
  | [v] => !v.getLsbD 0
  | v :: rest => v.getLsbD 0 && waitIdleFits rest

/-- `DRAIN`, unrolled: for each pass, how many bytes it popped; the pop after them found OUT empty (R160; log 16). -/
def drain (popped : List Nat) : List HostLine := popped.flatMap fun n => readStatus :: List.replicate (n + 1) .pop

/-- `LOAD_MODEL c[0..255]` (R160). -/
def loadModel (counts : Vector Word 256) : List HostLine :=
  (List.range 256).map (fun i => .wr (.count (.number i)) (counts[i]?.getD 0).toNat) ++ [.command .ftCommit]

/-- `BUILD_MODEL b1, ..., bn` (R160, R310). -/
def buildModel (data : List Byte) : List HostLine :=
  [.command .ftClear] ++ data.map (fun b => .command (.ftInc (.number b.toNat))) ++ [.command .ftCommit]

/-- `ENCODE b1, ..., bn` (R160), each `WAIT_IDLE` unrolled to `passes`. -/
def encodeLines (passes : Nat) (data : List Byte) : List HostLine :=
  data.flatMap fun b => .command (.encSym (.number b.toNat)) :: waitIdle passes

/-- The host's program for an encode after reset (R553): build the model, read MODEL_VALID and ERR, open, encode, finish, drain. -/
def encodeProgram (passes : Nat) (data : List Byte) (popped : List Nat) : List HostLine :=
  buildModel data ++ [readStatus, .rd (.name .err), .command .encInit] ++ encodeLines passes data ++ [.command .encFinish] ++ drain popped

/-- The host's program for a decode (R111, R554), for a body no longer than IN_DEPTH: load the model, empty IN, push the body, set EOS, open, and
read one RESULT for each symbol. -/
def decodeProgram (passes : Nat) (counts : Vector Word 256) (body : List Byte) (nsymbols : Nat) : List HostLine :=
  loadModel counts ++ [readStatus, .command .abort] ++ body.map (fun b => .push b.toNat) ++ [.setEos, .command .decInit] ++ waitIdle passes
    ++ (List.replicate nsymbols (.command .decSym :: waitIdle passes ++ [.rd (.name .result)])).flatten

/-- A program as events, each line followed by `turns` turns of the engine: one of the interleavings R200 allows. -/
def interleave (turns : Nat) (lines : List HostLine) : List Event :=
  lines.flatMap fun l => .host l.assemble :: List.replicate turns .engine

end Sys2Proof.Machine
end

