-- ==== Sys2Proof/Safety.lean ====
section
/-! DEFINITION. Safety.lean: the words the statements are written in: the invariant of the block, holds and the end of a run, what the host has
observed, and the bit streams at the packer and the unpacker. -/

namespace Sys2Proof.Machine

open Sys2Proof

/-- An interval on which no renormalization branch applies (43_range_encoder.md R366). -/
def Settled (low high : Half) : Prop :=
  low < Config.half ∧ Config.half ≤ high ∧ (low < Config.quarter ∨ Config.threeQuarters ≤ high)

/-- R42: what holds of the table while MODEL_VALID = 1. -/
structure State.ModelOk (s : State) : Prop where
  startZero : (s.start[0]).toNat = 0
  startSucc : ∀ n (h : n < 256), (s.start[n]).toNat + (s.count[n]).toNat = (s.start[n + 1]).toNat
  startLast : s.start[256] = s.total
  totalPos : 1 ≤ s.total.toNat
  totalMax : s.total.toNat ≤ Config.maxTotal

/-- VALUE will stand inside the interval once the shifts of the backlog are done, whatever bits the input supplies, and no subtraction on the way
borrows (44_range_decoder.md R408, R411). -/
def ValueFits (low high : Half) : List Subtrahend → Half → Prop
  | [], v => low ≤ v ∧ v ≤ high
  | c :: rest, v => c.val ≤ v ∧ ∀ bit, ValueFits low high rest (shiftValue v c bit)

/-- The invariant of the block: what every step keeps, from reset on. -/
structure State.Inv (s : State) : Prop where
  /-- R365, R366: the interval is not inverted, and is settled between commands. -/
  interval : Settled s.low s.high
  /-- R42. -/
  model : s.modelValid = true → s.ModelOk
  /-- R46: at most one backlog is not empty. -/
  oneBacklog : s.obl = [] ∨ s.ibl = []
  /-- R43: the bits of OACC above ONB-1 are 0. -/
  packer : s.oacc.toNat < 2 ^ s.onb.val
  /-- R45. -/
  outRoom : s.outQ.length ≤ s.params.outDepth
  /-- R45. -/
  inRoom : s.inQ.length ≤ s.params.inDepth
  /-- R400, R406, R407: an input backlog belongs to an open decode stream. -/
  decoding : s.ibl ≠ [] → s.mode = .dec
  /-- R408. -/
  value : s.mode = .dec → ValueFits s.low s.high s.ibl s.value

/-- The engine is held (R206): BUSY, and it has no enabled step. -/
def State.held (s : State) : Bool := s.busy && !s.engineEnabled

/-- The run has ended (R211): the host has taken its last step, BUSY = 0, and no engine step is enabled. -/
def State.runEnded (s : State) : Bool := s.agenda.isEmpty && !s.busy && !s.engineEnabled

/-- The values the host's reads returned, in order (R211). -/
def readValues (trace : List Reply) : List Word := trace.map Reply.value

/-- The bytes the host popped from OUT_DATA with OVALID = 1, in order (R211). -/
def poppedBytes (trace : List Reply) : List Byte :=
  trace.filterMap fun r => if registerAt r.off = .outData ∧ r.value.getLsbD 8 then some (r.value.setWidth 8) else none

/-- The low `n` bits of a byte, the highest of them first (R43, R44). -/
def lowBits (b : Byte) : Nat → List Bool
  | 0 => []
  | n + 1 => b.getLsbD n :: lowBits b n

/-- The bits of bytes, in stream order, bit 7 of each first (R106). -/
def bitsOf (bytes : List Byte) : List Bool := bytes.flatMap fun b => lowBits b 8

/-- The coded bits that have left the backlog and not yet left the block: those of OUT, then those the packer holds (R43). -/
def State.packedBits (s : State) : List Bool := bitsOf s.outQ ++ lowBits s.oacc s.onb.val

/-- The input bits not yet read: those left in ICACHE, then those of IN (R44). -/
def State.unreadBits (s : State) : List Bool := lowBits s.icache s.inb.val ++ bitsOf s.inQ

/-- VALUE after a list of shifts, each with its input bit (R208). -/
def shiftAll (v : Half) : List (Subtrahend × Bool) → Half
  | [] => v
  | (c, bit) :: rest => shiftAll (shiftValue v c bit) rest

/-- The next event is a host write of `w` to CMD; `rest` comes after it. -/
def State.nextCommand (s : State) (w : Word) (rest : List Event) : Prop :=
  ∃ off, registerAt off = .cmd ∧ s.agenda = .host (.write off w) :: rest

/-- The next event issues the command `i`: its word is written to CMD while the block is idle (R202). -/
def State.nextRuns (s : State) (i : Instr) : Prop := s.busy = false ∧ ∃ rest, s.nextCommand (encode i) rest

/-- The next event is a host read of the register `r`; `rest` comes after it. -/
def State.nextRead (s : State) (r : Register) (off : Offset) (rest : List Event) : Prop :=
  registerAt off = r ∧ s.agenda = .host (.read off) :: rest

/-- The next event is a host write of `v` to the register `r`; `rest` comes after it. -/
def State.nextWrite (s : State) (r : Register) (v : Word) (rest : List Event) : Prop :=
  ∃ off, registerAt off = r ∧ s.agenda = .host (.write off v) :: rest

/-- The next event is a turn of the engine: the agenda says so, or the host has taken its last step. -/
def State.engineNext (s : State) : Prop := s.agenda = [] ∨ ∃ rest, s.agenda = .engine :: rest

/-- The next event is the reset input. -/
def State.resetNext (s : State) : Prop := ∃ rest, s.agenda = .reset :: rest

end Sys2Proof.Machine
end

