-- ==== Sys2Proof/WellFormed.lean ====
section
/-! DEFINITION. WellFormed.lean: the checks on what is written for the block: a command, a command word (30_encoding.md R155) and a line of a
host program (R158, R159). The type of a command's operand already bounds it (R152), so every command is well formed; words and
lines can fail. -/

namespace Sys2Proof

/-- A command's operand is in the alphabet 0..255 (R152). -/
def Instr.wellFormed : Instr → Bool
  | .nop => true
  | .abort => true
  | .ftClear => true
  | .ftInc sym => decide (sym.toNat < Config.nsym)
  | .ftCommit => true
  | .encInit => true
  | .encSym sym => decide (sym.toNat < Config.nsym)
  | .encFinish => true
  | .decInit => true
  | .decSym => true

/-- `RSV = 0` (R151, R155). -/
def rsvOk (w : Word) : Bool := rsvField w == 0

/-- `OPC` is one of the ten of R153 (R155). -/
def opcOk (w : Word) : Bool := opcodeMap.any fun r => opcField r.matchWord == opcField w

/-- `SYM = 0` unless the command takes an operand (R151, R155). -/
def symOk (w : Word) : Bool := symField w == 0 || opcField w == 0x11 || opcField w == 0x21

/-- A legal command word: none of the three kinds of R155. -/
def wordWellFormed (w : Word) : Bool := rsvOk w && opcOk w && symOk w

namespace Machine

/-- `<sym>` is 0..255, or a printable ASCII character (R158). -/
def SymLit.wellFormed : SymLit → Bool
  | .number n => decide (n < 256)
  | .char c => decide (0x20 ≤ c.toNat ∧ c.toNat < 0x7F)

/-- `<reg>` names a register of the map, a COUNT entry 0..255, a START entry 0..256, or an offset of the register space (R159). -/
def RegRef.wellFormed : RegRef → Bool
  | .name r => r != .reserved
  | .count sym => sym.wellFormed
  | .start n => decide (n ≤ 256)
  | .raw off => decide (off < 0x1000)

/-- The operand of a command line, if it has one, is well formed (R158). -/
def CommandLine.wellFormed : CommandLine → Bool
  | .nop => true
  | .abort => true
  | .ftClear => true
  | .ftInc sym => sym.wellFormed
  | .ftCommit => true
  | .encInit => true
  | .encSym sym => sym.wellFormed
  | .encFinish => true
  | .decInit => true
  | .decSym => true

/-- The numbers of a line fit: values 32 bits, pushed bytes 8 bits (R159). -/
def HostLine.wellFormed : HostLine → Bool
  | .command c => c.wellFormed
  | .wr r v => r.wellFormed && decide (v < 2 ^ 32)
  | .rd r => r.wellFormed
  | .push b => decide (b < 256)
  | .pop => true
  | .setEos => true

end Machine

end Sys2Proof
end

