-- ==== Sys2Proof/Certificates/Slice0/Obligations.lean ====
section
/-! DEFINITION. Obligations.lean: what is claimed of the model, for the provers. Each docstring names the rules of spec/ it formalises. An
equation `exec i s = .next { s with … }` says at once that the command completes, what it writes, and that it leaves every other
component as it was. -/

namespace Sys2Proof.Statements

open Sys2Proof Sys2Proof.Machine

/-- What refusing the command word `w` with an error leaves: the bit is set, ERR_CMD is `w`, nothing else changes (R505, R512). -/
def refused (s : State) (bit : Byte) (w : Word) : State := { s with err := s.err ||| bit, errCmd := w }

/-- `MemWrite(0x000, 4, v)` while the block is idle raises ERR_ILLEGAL_CMD and does nothing else (R155, R502). -/
def RaisesIllegal (v : Word) : Prop :=
  ∀ (s : State) (off : Offset), registerAt off = .cmd → s.busy = false → busWrite off v s = .next (refused s 0x01 v)

/-- The word of a command without an operand: `w` is it, and any other word with its OPC is illegal (R154, R155). -/
def OnlyWord (w : Word) (i : Instr) : Prop := decode w = .ok i ∧ ∀ v : Word, opcField v = opcField w → v ≠ w → RaisesIllegal v

/-- The words of a command with an operand: SYM is the operand, and a word with its OPC and `RSV ≠ 0` is illegal (R154, R155). -/
def SymbolWords (opc : Byte) (i : Byte → Instr) : Prop :=
  (∀ sym : Byte, decode (opc ++ (0 : Half) ++ sym) = .ok (i sym)) ∧
    ∀ v : Word, opcField v = opc → rsvField v ≠ 0 → RaisesIllegal v

/-- `sum(COUNT[0..n))` as an exact integer. -/
def countSum (s : State) (n : Nat) : Nat := ∑ j ∈ Finset.range n, (s.count[j]?.getD 0).toNat

/-- `Narrow(sym, LOW, HIGH)` with the formulas of R305 written out. -/
def narrowLow (s : State) (sym : Byte) (low high : Half) : Nat :=
  low.toNat + ((high.toNat - low.toNat + 1) * (s.start[sym.toNat]?.getD 0).toNat) / s.total.toNat

/-- The upper bound of R305. -/
def narrowHigh (s : State) (sym : Byte) (low high : Half) : Nat :=
  low.toNat + ((high.toNat - low.toNat + 1) * ((s.start[sym.toNat]?.getD 0).toNat + (s.count[sym.toNat]?.getD 0).toNat)) / s.total.toNat - 1

/-- `START[sym] <= fv < START[sym] + COUNT[sym]` (R307). -/
def InInterval (s : State) (fv : Nat) (sym : Byte) : Prop :=
  (s.start[sym.toNat]?.getD 0).toNat ≤ fv ∧ fv < (s.start[sym.toNat]?.getD 0).toNat + (s.count[sym.toNat]?.getD 0).toNat

/-- An RenormEnc result with bits put before its own. -/
def prepend (bits : List Bool) (r : EncResult) : EncResult := { r with bits := bits ++ r.bits }

/-- ENC_SYM or ENC_FINISH while MODE is not ENC, or DEC_SYM while MODE is not DEC (R504). -/
def WrongMode (i : Instr) (s : State) : Prop :=
  (((∃ sym, i = .encSym sym) ∨ i = .encFinish) ∧ s.mode ≠ .enc) ∨ (i = .decSym ∧ s.mode ≠ .dec)

/-- ENC_INIT, ENC_SYM, DEC_INIT or DEC_SYM while MODEL_VALID = 0 (R506). -/
def NoModel (i : Instr) (s : State) : Prop :=
  (i = .encInit ∨ (∃ sym, i = .encSym sym) ∨ i = .decInit ∨ i = .decSym) ∧ s.modelValid = false

/-- ENC_SYM of a symbol whose count is 0 (R507). -/
def ZeroFreq (i : Instr) (s : State) : Prop := ∃ sym, i = .encSym sym ∧ s.count[sym.toNat]?.getD 0 = 0

/-- The pending count of a command would exceed 0xFFFFFFFF (R509). -/
def PendingOverflows (i : Instr) (s : State) : Prop :=
  (i = .encFinish ∧ s.pending = 0xFFFFFFFF) ∨
    ∃ sym, i = .encSym sym ∧
      renormEnc (BitVec.ofNat 16 (narrowLow s sym s.low s.high)) (BitVec.ofNat 16 (narrowHigh s sym s.low s.high)) s.pending = none

/-- A state without a model: every coder command the MODE admits is refused with ERR_NO_MODEL (R506; the corner cases of R301 and R303). -/
def CodersRefused (t : State) : Prop :=
  exec .encInit t = .next (refused t 0x08 0x20000000) ∧ exec .decInit t = .next (refused t 0x08 0x30000000) ∧
    (t.mode = .enc → ∀ sym : Byte, exec (.encSym sym) t = .next (refused t 0x08 (0x210000#24 ++ sym))) ∧
    (t.mode = .dec → exec .decSym t = .next (refused t 0x08 0x31000000))

/-- While BUSY, every step, of the host, of the engine or of reset, keeps ONB and the length of OBL together a multiple of 8, so that the packer is empty
once BUSY clears; and, but for reset, it keeps the bits the block still has to give, save for the byte that a pop takes. -/
def KeepsWholeBytes : Prop :=
  ∀ u v : State, u.busy = true → (u.onb.val + u.obl.length) % 8 = 0 → step u = .next v →
    (v.onb.val + v.obl.length) % 8 = 0 ∧ (v.busy = false → v.onb = 0) ∧
    (u.resetNext ∨ v.packedBits ++ v.obl = u.packedBits ++ u.obl ∨
      ((∃ off rest, u.nextRead .outData off rest) ∧ v.packedBits ++ v.obl = (u.packedBits ++ u.obl).drop 8))

/-- Issuing the commands in order, each when the one before it is done, leads from one state to another. -/
def Issues : List Instr → State → State → Prop
  | [], s, t => t = s
  | i :: rest, s, t => ∃ u, exec i s = .next u ∧ Issues rest u t

/-- The commands of BUILD_MODEL (R160, R310). -/
def buildCommands (data : List Byte) : List Instr := .ftClear :: (data.map .ftInc ++ [.ftCommit])

end Sys2Proof.Statements

open Sys2Proof Sys2Proof.Machine Sys2Proof.Statements

/-! ### Encoding -/

/-- R153: the ten rows of the opcode map, as words written out from OPC, RSV and SYM, and the illegal words of 95_test_vectors.md V30-7 to V30-13. -/
def Obligations.ListedWordsDecode : Prop :=
  decode 0x00000000 = .ok .nop ∧ decode 0x01000000 = .ok .abort ∧ decode 0x10000000 = .ok .ftClear ∧
  decode 0x11000041 = .ok (.ftInc 0x41) ∧ decode 0x110000FF = .ok (.ftInc 0xFF) ∧ decode 0x12000000 = .ok .ftCommit ∧
  decode 0x20000000 = .ok .encInit ∧ decode 0x21000000 = .ok (.encSym 0x00) ∧ decode 0x22000000 = .ok .encFinish ∧
  decode 0x30000000 = .ok .decInit ∧ decode 0x31000000 = .ok .decSym ∧
  decode 0x10000001 = .error .operandNotZero ∧ decode 0x21000100 = .error .reservedField ∧
  decode 0x11800041 = .error .reservedField ∧ decode 0x02000000 = .error .reservedOpcode ∧
  decode 0xFF000000 = .error .reservedOpcode ∧ decode 0x32000000 = .error .reservedOpcode ∧ decode 0x22000080 = .error .operandNotZero

/-- R151 to R154: a word decodes to a command exactly when it is the word the encoder writes for it, with every symbol; no bit is dropped either way. -/
def Obligations.DecodeInvertsEncode : Prop := ∀ (w : Word) (i : Instr), decode w = .ok i ↔ w = encode i

/-- R153, R154: a word that decodes is of exactly one row of the opcode map, its command's; and a word of a row decodes to a command of that row. -/
def Obligations.OneOpcodeRowPerWord : Prop :=
  (∀ (w : Word) (i : Instr), decode w = .ok i → i.row ∈ opcodeMap ∧ w &&& i.row.mask = i.row.matchWord) ∧
  (∀ (w : Word) (r : OpcodeRow), r ∈ opcodeMap → w &&& r.mask = r.matchWord → ∃ i, decode w = .ok i ∧ i.row = r) ∧
  (∀ (w : Word) (r q : OpcodeRow), r ∈ opcodeMap → q ∈ opcodeMap → w &&& r.mask = r.matchWord → w &&& q.mask = q.matchWord → r = q)

/-- R155: the three kinds of illegal word, and what writing one to CMD does when the block is idle and when it is BUSY. -/
def Obligations.IllegalWordsAreRefused : Prop :=
  (∀ w : Word, (∃ why, decode w = .error why) ↔
    (opcField w ∉ ([0x00, 0x01, 0x10, 0x11, 0x12, 0x20, 0x21, 0x22, 0x30, 0x31] : List Byte) ∨ rsvField w ≠ 0 ∨
      (opcField w ∈ ([0x00, 0x01, 0x10, 0x12, 0x20, 0x22, 0x30, 0x31] : List Byte) ∧ symField w ≠ 0))) ∧
  (∀ (s : State) (off : Offset) (w : Word), registerAt off = .cmd → (∃ why, decode w = .error why) →
    (s.busy = false → busWrite off w s = .next (refused s 0x01 w)) ∧ (s.busy = true → busWrite off w s = .next (refused s 0x02 w)))

/-! ### Steps and the command port -/

/-- R202, R203: when the word written to CMD decodes to a command, that step is the command's meaning, at the state without the event. What a step adds
around a meaning is the model's own (log 1): the head of the agenda says which of R200's steps comes next, the step takes it off, and
with an empty agenda it is the engine's turn. -/
def Obligations.StepRunsTheDecodedCommand : Prop :=
  (∀ (s : State) (w : Word) (i : Instr) (rest : List Event), s.nextCommand w rest → decode w = .ok i →
    step s = exec i { s with agenda := rest }) ∧
  (∀ s : State, s.agenda = [] → step s = .next s.engineTurn) ∧
  (∀ (s : State) (rest : List Event), s.agenda = .engine :: rest → step s = .next { s with agenda := rest }.engineTurn) ∧
  (∀ (s : State) (off : Offset) (rest : List Event), s.agenda = .host (.read off) :: rest →
    step s = .next (busRead off { s with agenda := rest })) ∧
  (∀ (s : State) (off : Offset) (v : Word) (rest : List Event), s.agenda = .host (.write off v) :: rest →
    step s = busWrite off v { s with agenda := rest }) ∧
  (∀ (s : State) (rest : List Event), s.agenda = .reset :: rest → step s = .next { s with agenda := rest }.applyReset)

/-- R500, R513, R523: nothing stops the block: every step, and every command from every state, ends in a next state. -/
def Obligations.EveryStepGoesOn : Prop := (∀ s : State, ∃ t, step s = .next t) ∧ ∀ (i : Instr) (s : State), ∃ t, exec i s = .next t

/-- R503: any CMD write while BUSY raises ERR_CMD_BUSY, whatever the word; it is dropped and nothing else changes. -/
def Obligations.WordIsDroppedWhileBusy : Prop :=
  ∀ (s : State) (off : Offset) (w : Word), registerAt off = .cmd → s.busy = true → busWrite off w s = .next (refused s 0x02 w)

/-- R511 with R512: the errors of a command in their order, each refusing it with no other effect; and when none of the first five applies, the only
errors left are the two of step 6. (Step 2 is about words that decode to no command: IllegalWordsAreRefused. In states that no run reaches, whether the
pending count overflows rests on logs 7 and 9.) -/
def Obligations.CommandErrorsInOrder : Prop :=
  ∀ (i : Instr) (s : State),
    (s.busy = true → exec i s = .next (refused s 0x02 (encode i))) ∧
    (s.busy = false → WrongMode i s → exec i s = .next (refused s 0x04 (encode i))) ∧
    (s.busy = false → ¬ WrongMode i s → NoModel i s → exec i s = .next (refused s 0x08 (encode i))) ∧
    (s.busy = false → ¬ WrongMode i s → ¬ NoModel i s → ZeroFreq i s → exec i s = .next (refused s 0x10 (encode i))) ∧
    (s.busy = false → ¬ WrongMode i s → ¬ NoModel i s → ¬ ZeroFreq i s → ∃ t, exec i s = .next t ∧
      (PendingOverflows i s → t.err = s.err ||| 0x40 ∧ t.errCmd = encode i) ∧
      (i = .ftCommit ∧ 0x3FFF < countSum s 256 → t.err = s.err ||| 0x20 ∧ t.errCmd = encode i) ∧
      (¬ PendingOverflows i s → ¬ (i = .ftCommit ∧ 0x3FFF < countSum s 256) → t.err = s.err ∧ t.errCmd = s.errCmd))

/-- R513: no ERR bit gates a later step: from two states that differ in ERR and ERR_CMD only, a step leaves states that differ in ERR, ERR_CMD and what
the host has read only. -/
def Obligations.ErrorBitsGateNothing : Prop :=
  ∀ (s t u : State) (e : Byte) (w : Word), step s = .next t → step { s with err := e, errCmd := w } = .next u →
    { u with err := t.err, errCmd := t.errCmd, trace := t.trace } = t

/-! ### Control and frequency table commands -/

/-- R212: NOP. -/
def Obligations.NopChangesNothing : Prop :=
  OnlyWord 0x00000000 .nop ∧
  (∀ s : State, s.busy = false → exec .nop s = .next s) ∧
  (∀ s : State, s.busy = true → exec .nop s = .next (refused s 0x02 0x00000000))

/-- R213: ABORT, by its issue function (log 18 is about a corner case that differs from it). -/
def Obligations.AbortEmptiesTheStreams : Prop :=
  OnlyWord 0x01000000 .abort ∧
  (∀ s : State, s.busy = false → exec .abort s = .next
    { s with
      mode := .none, low := 0x0000, high := 0xFFFF, value := 0x0000, pending := 0
      oacc := 0, onb := 0, icache := 0, inb := 0, outQ := [], inQ := [], eos := false, resultValid := false }) ∧
  (∀ s : State, s.busy = true → exec .abort s = .next (refused s 0x02 0x01000000))

/-- R301: FT_CLEAR, in every MODE; a coder command after it is refused. -/
def Obligations.FtClearZeroesEveryCount : Prop :=
  OnlyWord 0x10000000 .ftClear ∧
  (∀ s : State, s.busy = false → ∃ zeroed : Vector Word 256, (∀ n (h : n < 256), zeroed[n] = 0) ∧
    exec .ftClear s = .next { s with count := zeroed, modelValid := false } ∧ CodersRefused { s with count := zeroed, modelValid := false }) ∧
  (∀ s : State, s.busy = true → exec .ftClear s = .next (refused s 0x02 0x10000000))

/-- R302: FT_INC counts one symbol up, saturating, in every MODE; every other count stays; and a saturated count makes FT_COMMIT refuse the table. -/
def Obligations.FtIncCountsOneSymbol : Prop :=
  SymbolWords 0x11 .ftInc ∧
  (∀ (s : State) (sym : Byte), s.busy = false → ∃ counted : Vector Word 256,
    (counted[sym.toNat]?.getD 0).toNat = min ((s.count[sym.toNat]?.getD 0).toNat + 1) 0xFFFFFFFF ∧
    (∀ n (h : n < 256), n ≠ sym.toNat → counted[n] = s.count[n]) ∧
    exec (.ftInc sym) s = .next { s with count := counted, modelValid := false }) ∧
  (∀ (s : State) (sym : Byte), s.busy = true → exec (.ftInc sym) s = .next (refused s 0x02 (0x110000#24 ++ sym))) ∧
  (∀ (s : State) (sym : Byte), s.busy = false → s.count[sym.toNat]?.getD 0 = 0xFFFFFFFF →
    ∃ t, exec .ftCommit s = .next t ∧ t.modelValid = false ∧ t.err = s.err ||| 0x20 ∧ t.errCmd = 0x12000000)

/-- R303: FT_COMMIT derives START and TOTAL, then accepts the model, leaves it invalid for a zero total (a coder command after it is refused), or raises
ERR_TOTAL_RANGE above MAX_TOTAL, the starts and the total written in each case. -/
def Obligations.FtCommitDerivesTheStarts : Prop :=
  OnlyWord 0x12000000 .ftCommit ∧
  (∀ s : State, s.busy = false → ∃ (starts : Vector Wide 257) (sum : Wide),
    (∀ n (h : n < 257), (starts[n]).toNat = countSum s n) ∧ sum.toNat = countSum s 256 ∧
    (countSum s 256 = 0 → exec .ftCommit s = .next { s with start := starts, total := sum, modelValid := false } ∧
      CodersRefused { s with start := starts, total := sum, modelValid := false }) ∧
    (0 < countSum s 256 → countSum s 256 ≤ 0x3FFF →
      exec .ftCommit s = .next { s with start := starts, total := sum, modelValid := true }) ∧
    (0x3FFF < countSum s 256 →
      exec .ftCommit s = .next (refused { s with start := starts, total := sum, modelValid := false } 0x20 0x12000000))) ∧
  (∀ s : State, s.busy = true → exec .ftCommit s = .next (refused s 0x02 0x12000000))

/-- R304: the committed starts: they begin at 0, each adds its symbol's count, the last is TOTAL; they never decrease, and two neighbours are equal
exactly when the count between them is 0. -/
def Obligations.CommittedStartsArePrefixSums : Prop :=
  ∀ s : State, s.busy = false → ∃ t, exec .ftCommit s = .next t ∧ (t.start[0]).toNat = 0 ∧
    (∀ n (h : n < 256), (t.start[n + 1]).toNat = (t.start[n]).toNat + (t.count[n]).toNat) ∧ t.start[256] = t.total ∧
    (∀ m n (hm : m < 257) (hn : n < 257), m ≤ n → (t.start[m]).toNat ≤ (t.start[n]).toNat) ∧
    (∀ n (h : n < 256), t.start[n] = t.start[n + 1] ↔ t.count[n] = 0)

/-! ### Encoder -/

/-- R362: ENC_INIT, from every MODE: what it writes, and the errors that refuse it. -/
def Obligations.EncInitOpensAStream : Prop :=
  OnlyWord 0x20000000 .encInit ∧
  (∀ s : State, s.busy = false → s.modelValid = true → exec .encInit s = .next
    { s with low := 0x0000, high := 0xFFFF, pending := 0, oacc := 0, onb := 0, mode := .enc }) ∧
  (∀ s : State, s.busy = false → s.modelValid = false → exec .encInit s = .next (refused s 0x08 0x20000000)) ∧
  (∀ s : State, s.busy = true → exec .encInit s = .next (refused s 0x02 0x20000000))

/-- R352, R363: ENC_SYM narrows by the formulas of R305, renormalizes and sets OBL to at most 16 bits and the pending ones, one bit owed for each
iteration (R370; RenormDec goes through the same iterations, R409); a pending overflow closes the stream and changes nothing else; it cannot
overflow while PENDING is 16 below its maximum (derived, R361, R367); the only symbol of a model changes nothing; and the errors that refuse it, in
order. In states that no run reaches (an inverted interval, TOTAL 0) the bound of 16 is log 7's and the arithmetic log 9's, the model's own. -/
def Obligations.EncSymNarrowsAndRenormalizes : Prop :=
  SymbolWords 0x21 .encSym ∧
  ∀ (s : State) (sym : Byte),
    (s.busy = true → exec (.encSym sym) s = .next (refused s 0x02 (0x210000#24 ++ sym))) ∧
    (s.busy = false → s.mode ≠ .enc → exec (.encSym sym) s = .next (refused s 0x04 (0x210000#24 ++ sym))) ∧
    (s.busy = false → s.mode = .enc → s.modelValid = false → exec (.encSym sym) s = .next (refused s 0x08 (0x210000#24 ++ sym))) ∧
    (s.busy = false → s.mode = .enc → s.modelValid = true → s.count[sym.toNat]?.getD 0 = 0 →
      exec (.encSym sym) s = .next (refused s 0x10 (0x210000#24 ++ sym))) ∧
    (s.busy = false → s.mode = .enc → s.modelValid = true → s.count[sym.toNat]?.getD 0 ≠ 0 →
      (∀ r, renormEnc (BitVec.ofNat 16 (narrowLow s sym s.low s.high)) (BitVec.ofNat 16 (narrowHigh s sym s.low s.high)) s.pending = some r →
        exec (.encSym sym) s = .next { s with low := r.low, high := r.high, pending := r.pending, obl := r.bits } ∧
          r.bits.length ≤ 16 + s.pending.toNat ∧
          r.bits.length + r.pending.toNat =
            (renormDec (BitVec.ofNat 16 (narrowLow s sym s.low s.high)) (BitVec.ofNat 16 (narrowHigh s sym s.low s.high))).subs.length +
              s.pending.toNat) ∧
      (renormEnc (BitVec.ofNat 16 (narrowLow s sym s.low s.high)) (BitVec.ofNat 16 (narrowHigh s sym s.low s.high)) s.pending = none →
        exec (.encSym sym) s = .next (refused { s with mode := .none } 0x40 (0x210000#24 ++ sym))) ∧
      (s.pending.toNat + 16 ≤ 0xFFFFFFFF →
        ∃ r, exec (.encSym sym) s = .next { s with low := r.low, high := r.high, pending := r.pending, obl := r.bits } ∧
          renormEnc (BitVec.ofNat 16 (narrowLow s sym s.low s.high)) (BitVec.ofNat 16 (narrowHigh s sym s.low s.high)) s.pending = some r) ∧
      (s.ModelOk → Settled s.low s.high → (s.count[sym.toNat]?.getD 0).toNat = s.total.toNat → exec (.encSym sym) s = .next s))

/-- R364: ENC_FINISH sets OBL to the terminating bits and the padding and closes the stream; LOW and HIGH stay; it reads no model; the block is
BUSY, ONB and OBL make whole bytes, and every step while BUSY keeps them so: once BUSY clears the packer holds no bits; and its errors. -/
def Obligations.EncFinishTerminatesTheStream : Prop :=
  OnlyWord 0x22000000 .encFinish ∧ KeepsWholeBytes ∧
  ∀ s : State,
    (s.busy = true → exec .encFinish s = .next (refused s 0x02 0x22000000)) ∧
    (s.busy = false → s.mode ≠ .enc → exec .encFinish s = .next (refused s 0x04 0x22000000)) ∧
    (s.busy = false → s.mode = .enc → s.pending = 0xFFFFFFFF → exec .encFinish s = .next (refused { s with mode := .none } 0x40 0x22000000)) ∧
    (s.busy = false → s.mode = .enc → s.pending ≠ 0xFFFFFFFF → ∃ bits : List Bool,
      bits = (if s.low < 0x4000 then [false] ++ List.replicate (s.pending.toNat + 1) true
        else [true] ++ List.replicate (s.pending.toNat + 1) false) ∧
      ∃ t : State, exec .encFinish s = .next t ∧
        t = { s with obl := bits ++ List.replicate ((8 - (s.onb.val + bits.length) % 8) % 8) false, pending := 0, mode := .none } ∧
        t.busy = true ∧ (t.onb.val + t.obl.length) % 8 = 0)

/-- R253: the bits ENC_FINISH adds complete the packer's byte exactly, with at most 7 of padding, all zero, after the terminating bits. -/
def Obligations.FinishFillsTheLastByte : Prop :=
  ∀ s : State, s.busy = false → s.mode = .enc → s.pending ≠ 0xFFFFFFFF → ∃ t pad, exec .encFinish s = .next t ∧
    (s.onb.val + t.obl.length) % 8 = 0 ∧ pad < 8 ∧ s.pending.toNat + 2 + pad = t.obl.length ∧
    t.obl.drop (s.pending.toNat + 2) = List.replicate pad false

/-- R360 (R353 to R359, R361): RenormEnc by its branches, tested in the order E1, E2, E3, with SHIFT after each, without the model's bound on the loop. -/
def Obligations.RenormEncFollowsItsBranches : Prop :=
  ∀ (low high : Half) (pending : Word), low ≤ high →
    (high < 0x8000 → renormEnc low high pending =
      (renormEnc (low <<< 1) (high <<< 1 ||| 1) 0).map (prepend ([false] ++ List.replicate pending.toNat true))) ∧
    (¬ high < 0x8000 → 0x8000 ≤ low → renormEnc low high pending =
      (renormEnc ((low - 0x8000) <<< 1) ((high - 0x8000) <<< 1 ||| 1) 0).map (prepend ([true] ++ List.replicate pending.toNat false))) ∧
    (¬ high < 0x8000 → ¬ 0x8000 ≤ low → 0x4000 ≤ low ∧ high < 0xC000 → renormEnc low high pending =
      if pending = 0xFFFFFFFF then none else renormEnc ((low - 0x4000) <<< 1) ((high - 0x4000) <<< 1 ||| 1) (pending + 1)) ∧
    (¬ high < 0x8000 → ¬ 0x8000 ≤ low → ¬ (0x4000 ≤ low ∧ high < 0xC000) → renormEnc low high pending = some ⟨low, high, pending, []⟩)

/-- R366: when RenormEnc or RenormDec returns, no branch applies, and the range is at least 0x4002. -/
def Obligations.RenormalizationSettles : Prop :=
  ∀ (low high : Half), low ≤ high →
    (∀ (pending : Word) (r : EncResult), renormEnc low high pending = some r →
      Settled r.low r.high ∧ 0x4002 ≤ r.high.toNat - r.low.toNat + 1) ∧
    Settled (renormDec low high).low (renormDec low high).high ∧
    0x4002 ≤ (renormDec low high).high.toNat - (renormDec low high).low.toNat + 1

/-- R367: each iteration doubles the width exactly, and there are at most 16. -/
def Obligations.EachIterationDoublesTheWidth : Prop :=
  (∀ (low high : Half) (b : Branch), low ≤ high → branchOf low high = some b →
    (b.nextHigh high).toNat - (b.nextLow low).toNat + 1 = 2 * (high.toNat - low.toNat + 1)) ∧
  (∀ low high : Half, low ≤ high → (renormDec low high).subs.length ≤ 16 ∧
    branchOf (renormDec low high).low (renormDec low high).high = none ∧
    2 ^ (renormDec low high).subs.length * (high.toNat - low.toNat + 1) ≤ 0x10000)

/-- R365, R368: an iteration neither borrows nor carries out, and keeps the interval from inverting. -/
def Obligations.IterationNeverWraps : Prop :=
  ∀ (low high : Half) (b : Branch), low ≤ high → branchOf low high = some b →
    b.subtrahend.val ≤ low ∧ b.subtrahend.val ≤ high ∧ (high - b.subtrahend.val).msb = false ∧ (low - b.subtrahend.val).msb = false ∧
    (b.nextLow low).toNat = 2 * (low.toNat - b.subtrahend.val.toNat) ∧
    (b.nextHigh high).toNat = 2 * (high.toNat - b.subtrahend.val.toNat) + 1 ∧ b.nextLow low ≤ b.nextHigh high

/-- R370: the bits RenormEnc emits and the bits it leaves pending are one for each iteration, beside those pending before. (On an inverted interval, which
no run reaches, the loops end by the model's bound, log 7.) -/
def Obligations.EveryIterationOwesOneBit : Prop :=
  ∀ (low high : Half) (pending : Word) (r : EncResult), renormEnc low high pending = some r →
    r.bits.length + r.pending.toNat = (renormDec low high).subs.length + pending.toNat

/-- R409: the decoder's renormalization goes through the encoder's intervals: both end at the same bounds. (On an inverted interval, which no run reaches,
the loops end by the model's bound, log 7.) -/
def Obligations.DecoderRenormalizesInLockStep : Prop :=
  ∀ (low high : Half) (pending : Word) (r : EncResult), renormEnc low high pending = some r →
    (renormDec low high).low = r.low ∧ (renormDec low high).high = r.high

/-! ### Narrowing and lookup -/

/-- R306: Narrow never empties or inverts an interval and stays inside it, and its bounds are the exact integers of R305, when the width is at least
TOTAL, the subtraction of R305 not going below 0; and it is at every coder step, whose interval is settled (R366). -/
def Obligations.NarrowStaysInside : Prop :=
  (∀ s : State, s.ModelOk → Settled s.low s.high → s.total.toNat ≤ s.high.toNat - s.low.toNat + 1) ∧
  ∀ (s : State) (sym : Byte) (low high : Half), s.ModelOk → 1 ≤ (s.count[sym.toNat]?.getD 0).toNat → low ≤ high →
    s.total.toNat ≤ high.toNat - low.toNat + 1 →
    ((s.narrow sym low high).1.toNat = narrowLow s sym low high ∧ (s.narrow sym low high).2.toNat = narrowHigh s sym low high) ∧
    1 ≤ ((high.toNat - low.toNat + 1) * ((s.start[sym.toNat]?.getD 0).toNat + (s.count[sym.toNat]?.getD 0).toNat)) / s.total.toNat ∧
    low ≤ (s.narrow sym low high).1 ∧ (s.narrow sym low high).1 ≤ (s.narrow sym low high).2 ∧ (s.narrow sym low high).2 ≤ high

/-- R307, R308: a cumulative value below TOTAL lies in the interval of exactly one symbol, Lookup finds it, and its count is at least 1. -/
def Obligations.LookupFindsTheOneSymbol : Prop :=
  ∀ (s : State) (fv : Nat), s.ModelOk → fv < s.total.toNat →
    InInterval s fv (s.lookup fv) ∧ 1 ≤ (s.count[(s.lookup fv).toNat]?.getD 0).toNat ∧ ∀ sym, InInterval s fv sym → sym = s.lookup fv

/-! ### Decoder -/

/-- R406: DEC_INIT, from every MODE: what it writes, and the errors that refuse it. -/
def Obligations.DecInitOpensAStream : Prop :=
  OnlyWord 0x30000000 .decInit ∧
  (∀ s : State, s.busy = false → s.modelValid = true → exec .decInit s = .next
    { s with
      low := 0x0000, high := 0xFFFF, value := 0x0000, icache := 0, inb := 0, resultValid := false, mode := .dec
      ibl := List.replicate 16 .zero }) ∧
  (∀ s : State, s.busy = false → s.modelValid = false → exec .decInit s = .next (refused s 0x08 0x30000000)) ∧
  (∀ s : State, s.busy = true → exec .decInit s = .next (refused s 0x02 0x30000000))

/-- R407 (R403, R307, R305, R405): DEC_SYM: in every state it narrows to one symbol, renormalizes, and leaves the shifts to the engine; in a state of the
invariant that symbol is the one whose interval holds the cumulative value; and the errors that refuse it, in order. In states that no run reaches the
symbol, the arithmetic and the loop's bound are the model's (logs 8, 9, 7). -/
def Obligations.DecSymFindsTheSymbol : Prop :=
  OnlyWord 0x31000000 .decSym ∧
  ∀ s : State,
    (s.busy = true → exec .decSym s = .next (refused s 0x02 0x31000000)) ∧
    (s.busy = false → s.mode ≠ .dec → exec .decSym s = .next (refused s 0x04 0x31000000)) ∧
    (s.busy = false → s.mode = .dec → s.modelValid = false → exec .decSym s = .next (refused s 0x08 0x31000000)) ∧
    (s.busy = false → s.mode = .dec → s.modelValid = true → ∃ (sym : Byte) (r : DecResult),
      r = renormDec (BitVec.ofNat 16 (narrowLow s sym s.low s.high)) (BitVec.ofNat 16 (narrowHigh s sym s.low s.high)) ∧
      exec .decSym s = .next { s with low := r.low, high := r.high, ibl := r.subs, result := sym, resultValid := true } ∧
      (s.Inv → InInterval s (((s.value.toNat - s.low.toNat + 1) * s.total.toNat - 1) / (s.high.toNat - s.low.toNat + 1)) sym))

/-- R405: RenormDec by its branches, tested in the order E1, E2, E3, each recording its subtrahend, without the model's bound on the loop. -/
def Obligations.RenormDecFollowsItsBranches : Prop :=
  ∀ (low high : Half), low ≤ high →
    (high < 0x8000 → renormDec low high =
      { renormDec (low <<< 1) (high <<< 1 ||| 1) with subs := .zero :: (renormDec (low <<< 1) (high <<< 1 ||| 1)).subs }) ∧
    (¬ high < 0x8000 → 0x8000 ≤ low → renormDec low high =
      { renormDec ((low - 0x8000) <<< 1) ((high - 0x8000) <<< 1 ||| 1) with
        subs := .half :: (renormDec ((low - 0x8000) <<< 1) ((high - 0x8000) <<< 1 ||| 1)).subs }) ∧
    (¬ high < 0x8000 → ¬ 0x8000 ≤ low → 0x4000 ≤ low ∧ high < 0xC000 → renormDec low high =
      { renormDec ((low - 0x4000) <<< 1) ((high - 0x4000) <<< 1 ||| 1) with
        subs := .quarter :: (renormDec ((low - 0x4000) <<< 1) ((high - 0x4000) <<< 1 ||| 1)).subs }) ∧
    (¬ high < 0x8000 → ¬ 0x8000 ≤ low → ¬ (0x4000 ≤ low ∧ high < 0xC000) → renormDec low high = ⟨low, high, []⟩)

/-- R403, R404: with VALUE inside the interval the cumulative value is the quotient, below TOTAL, and the clamp never takes effect. -/
def Obligations.ClampNeverTakesEffect : Prop :=
  ∀ s : State, s.low ≤ s.value → s.value ≤ s.high → 1 ≤ s.total.toNat →
    s.freqVal = ((s.value.toNat - s.low.toNat + 1) * s.total.toNat - 1) / (s.high.toNat - s.low.toNat + 1) ∧ s.freqVal < s.total.toNat

/-- R408: the sub-interval of the symbol DEC_SYM finds holds VALUE. -/
def Obligations.FoundIntervalHoldsTheValue : Prop :=
  ∀ s : State, s.ModelOk → Settled s.low s.high → s.low ≤ s.value → s.value ≤ s.high →
    (s.narrow (s.lookup s.freqVal) s.low s.high).1 ≤ s.value ∧ s.value ≤ (s.narrow (s.lookup s.freqVal) s.low s.high).2

/-! ### Invariant -/

/-- R42, R43, R45, R46, R365, R366, R408 together: every step, of the host, of the engine or of reset, from every state of the invariant, ends in a
state of the invariant. -/
def Obligations.StepKeepsTheInvariant : Prop := ∀ s t : State, s.Inv → step s = .next t → t.Inv

/-- The state after reset is a state of the invariant, whatever the table holds. -/
def Obligations.ResetHasTheInvariant : Prop := State.reset.Inv

/-! ### Engine -/

/-- R205, R252: an enabled PutStep takes the first bit of OBL and appends it to the bits the packer and OUT hold, MSB-first; a full byte goes to OUT.
Nothing else changes. That the turn is a PutStep with IBL not empty too, which no run reaches (R46), is the model's choice (log 6). -/
def Obligations.PutStepPacksTheNextBit : Prop :=
  ∀ (s : State) (b : Bool) (rest : List Bool), s.obl = b :: rest → ¬ (s.onb = 7 ∧ s.outQ.length = s.params.outDepth) →
    s.engineTurn.obl = rest ∧ s.engineTurn.packedBits = s.packedBits ++ [b] ∧
    s.engineTurn = { s with obl := rest, oacc := s.engineTurn.oacc, onb := s.engineTurn.onb, outQ := s.engineTurn.outQ } ∧
    (s.onb = 7 → s.engineTurn.onb = 0 ∧ s.engineTurn.oacc = 0 ∧ s.engineTurn.outQ.length = s.outQ.length + 1) ∧
    (s.onb ≠ 7 → s.engineTurn.onb.val = s.onb.val + 1 ∧ s.engineTurn.outQ = s.outQ)

/-- R205, R254, R255, R402: an enabled GetStep takes the first subtrahend of IBL and the next unread bit, MSB-first, or 0 past the end, and shifts VALUE.
Past the end the unpacker does not change. Nothing else changes. -/
def Obligations.GetStepShiftsInTheNextBit : Prop :=
  ∀ (s : State) (c : Subtrahend) (rest : List Subtrahend), s.obl = [] → s.ibl = c :: rest →
    (∀ (bit : Bool) (bits : List Bool), s.unreadBits = bit :: bits → s.engineTurn.unreadBits = bits ∧
      s.engineTurn =
        { s with
          ibl := rest, value := ((s.value - c.val) <<< 1) ||| (if bit then 1 else 0)
          icache := s.engineTurn.icache, inb := s.engineTurn.inb, inQ := s.engineTurn.inQ }) ∧
    (s.unreadBits = [] → s.eos = true → s.engineTurn = { s with ibl := rest, value := (s.value - c.val) <<< 1 }) ∧
    (s.unreadBits = [] → s.eos = false → s.engineTurn = s)

/-- R206: with at most one backlog, the engine is held exactly when STATUS shows IN_WAIT or OUT_WAIT, and its turn then changes nothing. -/
def Obligations.HeldExactlyInTheTwoWaits : Prop :=
  ∀ s : State, s.obl = [] ∨ s.ibl = [] →
    (s.held = true ↔ s.outWait = true ∨ s.inWait = true) ∧ (s.held = true → s.engineTurn = s)

/-- R206, R550: only the lifting step of the hold's row, or reset, ends a hold; and a lifting step does end it: the engine then has a step. -/
def Obligations.OnlyTheListedStepsLiftAHold : Prop :=
  (∀ s t : State, s.Inv → s.held = true → step s = .next t → t.held = false →
    s.resetNext ∨
    (s.outWait = true ∧ ∃ off rest, s.nextRead .outData off rest) ∨
    (s.inWait = true ∧ ∃ v rest, s.nextWrite .inData v rest) ∨
    (s.inWait = true ∧ ∃ v rest, s.nextWrite .inCtrl v rest ∧ v.getLsbD 0 = true)) ∧
  (∀ s t : State, s.Inv → step s = .next t →
    (s.outWait = true → (∃ off rest, s.nextRead .outData off rest) → t.engineEnabled = true) ∧
    (s.inWait = true → (∃ v rest, s.nextWrite .inData v rest) → t.engineEnabled = true) ∧
    (s.inWait = true → (∃ v rest, s.nextWrite .inCtrl v rest ∧ v.getLsbD 0 = true) → t.engineEnabled = true))

/-- R207, R208, R262, R581: an output backlog of n bits, with room in OUT, is packed in exactly n engine steps, in order; the block is then not BUSY.
The empty agenda stands for the engine alone (log 1). -/
def Obligations.OutputBacklogIsPackedInOrder : Prop :=
  ∀ s : State, s.agenda = [] → s.ibl = [] → s.outQ.length + (s.onb.val + s.obl.length) / 8 ≤ s.params.outDepth →
    ∃ t, Host.Core.run core s.obl.length s = .next t ∧ t.busy = false ∧ t.packedBits = s.packedBits ++ s.obl ∧
      t = { s with obl := [], oacc := t.oacc, onb := t.onb, outQ := t.outQ }

/-- R207, R208, R263, R581: an input backlog of n shifts, with n bits to read or EOS set, is done in exactly n engine steps: VALUE takes the unread bits in
order, zeros past their end; the block is then not BUSY. The empty agenda stands for the engine alone (log 1). -/
def Obligations.InputBacklogIsShiftedInOrder : Prop :=
  ∀ s : State, s.agenda = [] → s.obl = [] → s.ibl.length ≤ s.unreadBits.length ∨ s.eos = true →
    ∃ t, Host.Core.run core s.ibl.length s = .next t ∧ t.busy = false ∧ t.unreadBits = s.unreadBits.drop s.ibl.length ∧
      t = { s with
        ibl := [], icache := t.icache, inb := t.inb, inQ := t.inQ
        value := shiftAll s.value (s.ibl.zip (s.unreadBits ++ List.replicate s.ibl.length false)) }

/-! ### Registers -/

/-- R49, R101: the register map, by byte offset; offset bits 1:0 are ignored; what is not listed is reserved. -/
def Obligations.RegisterMap : Prop :=
  (registerAt 0x000 = .cmd ∧ registerAt 0x004 = .status ∧ registerAt 0x008 = .err ∧ registerAt 0x00C = .errCmd ∧ registerAt 0x010 = .low ∧
    registerAt 0x014 = .high ∧ registerAt 0x018 = .value ∧ registerAt 0x01C = .pending ∧ registerAt 0x020 = .totalLo ∧
    registerAt 0x024 = .totalHi ∧ registerAt 0x028 = .result ∧ registerAt 0x02C = .bitstate ∧ registerAt 0x030 = .outData ∧
    registerAt 0x034 = .inData ∧ registerAt 0x038 = .fifoStat ∧ registerAt 0x03C = .inCtrl ∧ registerAt 0x040 = .cfg0 ∧
    registerAt 0x044 = .cfg1) ∧
  (∀ sym : Byte, registerAt (BitVec.ofNat 12 (0x400 + 4 * sym.toNat)) = .count sym) ∧
  (∀ n : Fin 257, registerAt (BitVec.ofNat 12 (0x800 + 4 * n.val)) = .start n) ∧
  (∀ off : Offset, registerAt off = registerAt (off &&& 0xFFC)) ∧
  (∀ off : Offset, (0x048 ≤ off.toNat ∧ off.toNat < 0x400) ∨ 0xC04 ≤ off.toNat → registerAt off = .reserved)

/-- R52: the fields of STATUS; a write of it is ignored. -/
def Obligations.StatusFields : Prop :=
  ∀ s : State,
    (s.statusWord.getLsbD 0 = true ↔ s.obl ≠ [] ∨ s.ibl ≠ []) ∧
    (s.statusWord.extractLsb' 1 2 = match s.mode with | .none => 0 | .enc => 1 | .dec => 2) ∧
    s.statusWord.getLsbD 3 = s.modelValid ∧ s.statusWord.getLsbD 4 = s.resultValid ∧
    (s.statusWord.getLsbD 5 = true ↔ s.ibl ≠ [] ∧ s.inb = 0 ∧ s.inQ.length = 0 ∧ s.eos = false) ∧
    (s.statusWord.getLsbD 6 = true ↔ s.obl ≠ [] ∧ s.onb = 7 ∧ s.outQ.length = s.params.outDepth) ∧
    (s.statusWord.getLsbD 7 = true ↔ s.err ≠ 0) ∧ s.statusWord.getLsbD 8 = s.eos ∧ s.statusWord.toNat < 2 ^ 9 ∧
    s.regValue .status = s.statusWord ∧ ∀ (off : Offset) (v : Word), registerAt off = .status → busWrite off v s = .next s

/-- R50, R51, R54 to R57, R59 to R63, R47, R48 (the reads), R64: what a read of each register returns, from the state before the read. -/
def Obligations.ReadValues : Prop :=
  ∀ s : State,
    (s.regValue .cmd = 0 ∧ s.regValue .inData = 0 ∧ s.regValue .reserved = 0 ∧ s.regValue .cfg1 = 0x00103FFF) ∧
    ((s.regValue .err).toNat = s.err.toNat ∧ s.regValue .errCmd = s.errCmd) ∧
    ((s.regValue .low).toNat = s.low.toNat ∧ (s.regValue .high).toNat = s.high.toNat ∧ (s.regValue .value).toNat = s.value.toNat ∧
      s.regValue .pending = s.pending ∧ (s.regValue .result).toNat = s.result.toNat) ∧
    (s.regValue .totalLo).toNat + 2 ^ 32 * (s.regValue .totalHi).toNat = s.total.toNat ∧
    ((s.regValue .inCtrl).toNat = if s.eos then 1 else 0) ∧
    ((s.regValue .cfg0).toNat = s.params.outDepth + 2 ^ 16 * s.params.inDepth) ∧
    (s.outQ.length < 2 ^ 16 → s.inQ.length < 2 ^ 16 → (s.regValue .fifoStat).toNat = s.outQ.length + 2 ^ 16 * s.inQ.length) ∧
    ((s.regValue .bitstate).toNat = s.oacc.toNat + 2 ^ 8 * s.onb.val + 2 ^ 16 * s.icache.toNat + 2 ^ 24 * s.inb.val) ∧
    (∀ n (h : n < 256), s.regValue (.count (BitVec.ofNat 8 n)) = s.count[n]) ∧
    (∀ n : Fin 257, (s.regValue (.start n)).toNat = (s.start[n.val]).toNat % 2 ^ 32)

/-- R102, R64, R65: a host read returns the value of the state before it and changes nothing, but that OUT_DATA pops. The trace of replies is the model's
own (log 2). -/
def Obligations.ReadsHaveNoEffectButThePop : Prop :=
  ∀ (s : State) (r : Register) (off : Offset) (rest : List Event), s.nextRead r off rest →
    (r ≠ .outData → step s = .next { s with agenda := rest, trace := s.trace ++ [⟨off, s.regValue r⟩] }) ∧
    (r = .outData → step s = .next { s with agenda := rest, outQ := s.outQ.tail, trace := s.trace ++ [⟨off, s.regValue r⟩] })

/-- R58, R259: a read of OUT_DATA gives the oldest byte with OVALID set and pops it, or 0 when OUT is empty, and then nothing of the block changes. -/
def Obligations.OutDataPopsTheOldestByte : Prop :=
  ∀ (s : State) (off : Offset) (rest : List Event), s.nextRead .outData off rest →
    (∀ (b : Byte) (bytes : List Byte), s.outQ = b :: bytes →
      step s = .next { s with agenda := rest, outQ := bytes, trace := s.trace ++ [⟨off, 0x00000100 ||| b.setWidth 32⟩] }) ∧
    (s.outQ = [] → step s = .next { s with agenda := rest, trace := s.trace ++ [⟨off, 0x00000000⟩] })

/-- R260, R510: a write of IN_DATA pushes the low byte, or, when IN is full, drops it with ERR_IN_OVERFLOW, ERR_CMD unchanged. -/
def Obligations.InDataPushesOrOverflows : Prop :=
  ∀ (s : State) (off : Offset) (v : Word), registerAt off = .inData →
    (s.inQ.length < s.params.inDepth → busWrite off v s = .next { s with inQ := s.inQ ++ [v.extractLsb' 0 8] }) ∧
    (¬ s.inQ.length < s.params.inDepth → busWrite off v s = .next { s with err := s.err ||| 0x80 })

/-- R53: a read of ERR gives its bits; a write clears the bits written as 1, leaves the others, and ignores bits 31:8; it raises nothing. -/
def Obligations.ErrIsWriteOneToClear : Prop :=
  ∀ (s : State) (off : Offset) (v : Word), registerAt off = .err →
    (s.regValue .err).toNat = s.err.toNat ∧
    ∃ e : Byte, busWrite off v s = .next { s with err := e } ∧ ∀ n, n < 8 → e.getLsbD n = (s.err.getLsbD n && !v.getLsbD n)

/-- R61, R62, R64: IN_CTRL reads as EOS, and a write sets EOS to bit 0; COUNT[s] reads as that count, and a write, at any time, sets it and clears
MODEL_VALID; a write of a read-only register or a reserved offset is ignored; CMD, IN_DATA and reserved offsets read as 0, and no read but
OUT_DATA's changes the state. -/
def Obligations.OtherRegisterWrites : Prop :=
  ∀ (s : State) (off : Offset) (v : Word),
    ((s.regValue .inCtrl).toNat = if s.eos then 1 else 0) ∧
    (registerAt off = .inCtrl → busWrite off v s = .next { s with eos := v.getLsbD 0 }) ∧
    (∀ sym : Byte, s.regValue (.count sym) = s.count[sym.toNat]?.getD 0) ∧
    (∀ sym, registerAt off = .count sym → ∃ counts : Vector Word 256, counts[sym.toNat]?.getD 0 = v ∧
      (∀ n (h : n < 256), n ≠ sym.toNat → counts[n] = s.count[n]) ∧ busWrite off v s = .next { s with count := counts, modelValid := false }) ∧
    (registerAt off ≠ .cmd → registerAt off ≠ .err → registerAt off ≠ .inData → registerAt off ≠ .inCtrl →
      (∀ sym, registerAt off ≠ .count sym) → busWrite off v s = .next s) ∧
    (s.regValue .cmd = 0 ∧ s.regValue .inData = 0 ∧ s.regValue .reserved = 0) ∧ (∀ r, r ≠ .outData → s.afterRead r = s)

/-- R66, R550, R551: the reset input, in any state, even BUSY or held, gives every component its reset value; the table entries are the free values of
log 4, and what the host holds is kept (log 12). STATUS then reads 0. -/
def Obligations.ResetFromAnyState : Prop :=
  ∀ (s : State) (rest : List Event), s.agenda = .reset :: rest → ∃ t, step s = .next t ∧
    (t.low = 0x0000 ∧ t.high = 0xFFFF ∧ t.value = 0x0000 ∧ t.pending = 0 ∧ t.mode = .none ∧ t.modelValid = false ∧ t.result = 0x00 ∧
      t.resultValid = false ∧ t.oacc = 0 ∧ t.onb = 0 ∧ t.icache = 0 ∧ t.inb = 0 ∧ t.outQ = [] ∧ t.inQ = [] ∧ t.eos = false ∧ t.obl = [] ∧
      t.ibl = [] ∧ t.err = 0 ∧ t.errCmd = 0) ∧
    t.statusWord = 0 ∧ t.params = s.params ∧ t.agenda = rest ∧ t.trace = s.trace

/-! ### Who writes what -/

/-- R32, R33: LOW and HIGH change only by ENC_INIT, ENC_SYM, DEC_INIT, DEC_SYM, ABORT and reset. -/
def Obligations.WritersOfTheInterval : Prop :=
  ∀ s t : State, step s = .next t → t.low ≠ s.low ∨ t.high ≠ s.high →
    s.nextRuns .encInit ∨ (∃ sym, s.nextRuns (.encSym sym)) ∨ s.nextRuns .decInit ∨ s.nextRuns .decSym ∨ s.nextRuns .abort ∨ s.resetNext

/-- R34: VALUE changes only by DEC_INIT, a GetStep of the engine, ABORT and reset. -/
def Obligations.WritersOfValue : Prop :=
  ∀ s t : State, step s = .next t → t.value ≠ s.value →
    s.nextRuns .decInit ∨ (s.engineNext ∧ s.ibl ≠ []) ∨ s.nextRuns .abort ∨ s.resetNext

/-- R35: PENDING changes only by ENC_INIT, ENC_SYM, ENC_FINISH, ABORT and reset. -/
def Obligations.WritersOfPending : Prop :=
  ∀ s t : State, step s = .next t → t.pending ≠ s.pending →
    s.nextRuns .encInit ∨ (∃ sym, s.nextRuns (.encSym sym)) ∨ s.nextRuns .encFinish ∨ s.nextRuns .abort ∨ s.resetNext

/-- R36: MODE becomes ENC only by ENC_INIT, DEC only by DEC_INIT, and NONE only by reset, ABORT, ENC_FINISH and ERR_PENDING_OVF. -/
def Obligations.WritersOfMode : Prop :=
  ∀ s t : State, step s = .next t → t.mode ≠ s.mode →
    (t.mode = .enc → s.nextRuns .encInit) ∧ (t.mode = .dec → s.nextRuns .decInit) ∧
    (t.mode = .none → s.resetNext ∨ s.nextRuns .abort ∨ s.nextRuns .encFinish ∨
      ∃ sym, s.nextRuns (.encSym sym) ∧ PendingOverflows (.encSym sym) s)

/-- R37, R62: MODEL_VALID becomes 1 only by a FT_COMMIT whose total is in 1..MAX_TOTAL, and becomes 0 only by FT_CLEAR, FT_INC, a write of a COUNT entry,
a FT_COMMIT that does not accept its total, and reset; each of the first three always clears it. -/
def Obligations.WritersOfModelValid : Prop :=
  ∀ s t : State, step s = .next t →
    (s.modelValid = false → t.modelValid = true → s.nextRuns .ftCommit ∧ 1 ≤ countSum s 256 ∧ countSum s 256 ≤ 0x3FFF) ∧
    (s.modelValid = true → t.modelValid = false →
      s.nextRuns .ftClear ∨ (∃ sym, s.nextRuns (.ftInc sym)) ∨ (∃ sym v rest, s.nextWrite (.count sym) v rest) ∨ s.nextRuns .ftCommit ∨
        s.resetNext) ∧
    (s.nextRuns .ftClear ∨ (∃ sym, s.nextRuns (.ftInc sym)) ∨ (∃ sym v rest, s.nextWrite (.count sym) v rest) → t.modelValid = false)

/-- R38: RESULT changes only by DEC_SYM and reset; RESULT_VALID becomes 1 only by DEC_SYM and 0 only by DEC_INIT, ABORT and reset. -/
def Obligations.WritersOfResult : Prop :=
  ∀ s t : State, step s = .next t →
    (t.result ≠ s.result → s.nextRuns .decSym ∨ s.resetNext) ∧
    (s.resultValid = false → t.resultValid = true → s.nextRuns .decSym) ∧
    (s.resultValid = true → t.resultValid = false → s.nextRuns .decInit ∨ s.nextRuns .abort ∨ s.resetNext)

/-- R39, R40, R41: START and TOTAL change only by FT_COMMIT and reset; COUNT only by a write of its window, FT_CLEAR, FT_INC and reset. -/
def Obligations.WritersOfTheTable : Prop :=
  ∀ s t : State, step s = .next t →
    (t.start ≠ s.start ∨ t.total ≠ s.total → s.nextRuns .ftCommit ∨ s.resetNext) ∧
    (t.count ≠ s.count → (∃ sym v rest, s.nextWrite (.count sym) v rest) ∨ s.nextRuns .ftClear ∨ (∃ sym, s.nextRuns (.ftInc sym)) ∨
      s.resetNext)

/-- R43, R44, R250, R256, R261: the packer, the unpacker and the FIFOs change only by the engine, ABORT, reset, the INIT of their side (packer and
unpacker), the host's pop (OUT) and push (IN). -/
def Obligations.WritersOfTheStreams : Prop :=
  ∀ s t : State, step s = .next t →
    (t.oacc ≠ s.oacc ∨ t.onb ≠ s.onb → s.engineNext ∨ s.nextRuns .encInit ∨ s.nextRuns .abort ∨ s.resetNext) ∧
    (t.icache ≠ s.icache ∨ t.inb ≠ s.inb → s.engineNext ∨ s.nextRuns .decInit ∨ s.nextRuns .abort ∨ s.resetNext) ∧
    (t.outQ ≠ s.outQ → (s.engineNext ∧ s.obl ≠ []) ∨ (∃ off rest, s.nextRead .outData off rest) ∨ s.nextRuns .abort ∨ s.resetNext) ∧
    (t.inQ ≠ s.inQ → (s.engineNext ∧ s.ibl ≠ []) ∨ (∃ v rest, s.nextWrite .inData v rest) ∨ s.nextRuns .abort ∨ s.resetNext) ∧
    (t.eos ≠ s.eos → (∃ v rest, s.nextWrite .inCtrl v rest) ∨ s.nextRuns .abort ∨ s.resetNext)

/-- R47, R48, R501, R514, R515: an ERR bit becomes 1 only by a host write of CMD, whose word ERR_CMD then holds, or, bit 7, of IN_DATA, and becomes 0 only by
a host write of ERR with that bit 1, or reset; ERR_CMD changes only by a CMD write, whose word it takes, and by reset. -/
def Obligations.ErrorBitsAreSticky : Prop :=
  ∀ s t : State, step s = .next t →
    (∀ n, n < 8 → s.err.getLsbD n = true → t.err.getLsbD n = false →
      s.resetNext ∨ ∃ v rest, s.nextWrite .err v rest ∧ v.getLsbD n = true) ∧
    (∀ n, n < 8 → s.err.getLsbD n = false → t.err.getLsbD n = true →
      (n < 7 ∧ ∃ w rest, s.nextCommand w rest ∧ t.errCmd = w) ∨ (n = 7 ∧ ∃ v rest, s.nextWrite .inData v rest)) ∧
    (t.errCmd ≠ s.errCmd → (s.resetNext ∧ t.errCmd = 0) ∨ ∃ w rest, s.nextCommand w rest ∧ t.errCmd = w ∧ t.err ≠ 0)

/-- R46, R204: OBL is filled only by ENC_SYM and ENC_FINISH and IBL only by DEC_INIT and DEC_SYM; otherwise the engine takes the first entry, or reset
empties them. -/
def Obligations.WritersOfTheBacklogs : Prop :=
  ∀ s t : State, step s = .next t →
    (t.obl ≠ s.obl → (∃ sym, s.nextRuns (.encSym sym)) ∨ s.nextRuns .encFinish ∨ (s.engineNext ∧ t.obl = s.obl.tail) ∨ s.resetNext) ∧
    (t.ibl ≠ s.ibl → s.nextRuns .decInit ∨ s.nextRuns .decSym ∨ (s.engineNext ∧ t.ibl = s.ibl.tail) ∨ s.resetNext)

/-! ### Building a model from data -/

/-- R310 (R160, R301 to R303): issuing FT_CLEAR, FT_INC of each byte and FT_COMMIT, from every idle state, leaves COUNT the saturated number of each byte
in the data; with 1 to 16383 bytes the model is valid, TOTAL the number of bytes and START[n] that of the bytes below n; with none it is invalid
without an error; with more, ERR_TOTAL_RANGE. R108 to R110: the header the host writes for the data is then that table, as host reads return it, in
little-endian bytes; and a container read back from its bytes is the container. The container is the host's (log 19). -/
def Obligations.BuiltTableCountsTheData : Prop :=
  (∀ data : List Byte, (buildModel data).map HostLine.assemble = (buildCommands data).map fun i => .write 0x000 (encode i)) ∧
  (∀ (data : List Byte) (s : State), s.busy = false → ∃ t, Issues (buildCommands data) s t ∧
    (∀ n (h : n < 256), (t.count[n]).toNat = min (data.count (BitVec.ofNat 8 n)) 0xFFFFFFFF) ∧
    (data.length ≤ 0x3FFF → t.total.toNat = data.length ∧ ∀ n (h : n < 257), (t.start[n]).toNat = data.countP fun b => b.toNat < n) ∧
    (t.modelValid = true ↔ 1 ≤ data.length ∧ data.length ≤ 0x3FFF) ∧
    (data.length ≤ 0x3FFF → t.err = s.err ∧ t.errCmd = s.errCmd) ∧
    (0x3FFF < data.length → t.err = s.err ||| 0x20 ∧ t.errCmd = 0x12000000) ∧
    t = { s with count := t.count, start := t.start, total := t.total, modelValid := t.modelValid, err := t.err, errCmd := t.errCmd } ∧
    (data.length ≤ 0x3FFF → ∀ body : List Byte,
      (∀ k, k < 8 → (Container.ofEncode data body).toBytes[k]? = some (BitVec.ofNat 8 (t.total.toNat / 2 ^ (8 * k)))) ∧
      (∀ (sym : Byte) (k : Nat), k < 4 →
        (Container.ofEncode data body).toBytes[8 + 4 * sym.toNat + k]? = some ((t.regValue (.count sym)).extractLsb' (8 * k) 8)) ∧
      (Container.ofEncode data body).toBytes.drop 1032 = body)) ∧
  (∀ c : Container, Container.ofBytes c.toBytes = some c)
end

