-- ==== Sys2Proof/Laws/Decode.lean ====
section
/-! SUPPORT. Laws/Decode.lean: the fields of a word put together from fields, and the cases of the decoder. -/

namespace Sys2Proof

/-- A word put together from its three fields has them as its fields (R151). -/
theorem opcField_append (o : Byte) (r : Half) (y : Byte) : opcField (o ++ r ++ y) = o := by
  change BitVec.extractLsb' 24 8 (o ++ r ++ y : BitVec (8 + 16 + 8)) = o
  apply BitVec.eq_of_getLsbD_eq
  intro i hi
  have h1 : ¬ 24 + i < 8 := by omega
  have h2 : ¬ 24 + i - 8 < 16 := by omega
  have h3 : 24 + i - 8 - 16 = i := by omega
  simp only [BitVec.getLsbD_extractLsb', BitVec.getLsbD_append, h1, h2, h3, hi, decide_true, Bool.true_and, if_false]

theorem rsvField_append (o : Byte) (r : Half) (y : Byte) : rsvField (o ++ r ++ y) = r := by
  change BitVec.extractLsb' 8 16 (o ++ r ++ y : BitVec (8 + 16 + 8)) = r
  apply BitVec.eq_of_getLsbD_eq
  intro i hi
  have h1 : ¬ 8 + i < 8 := by omega
  have h2 : 8 + i - 8 = i := by omega
  simp only [BitVec.getLsbD_extractLsb', BitVec.getLsbD_append, h1, h2, hi, decide_true, Bool.true_and, if_false, if_true]

theorem symField_append (o : Byte) (r : Half) (y : Byte) : symField (o ++ r ++ y) = y := by
  change BitVec.extractLsb' 0 8 (o ++ r ++ y : BitVec (8 + 16 + 8)) = y
  apply BitVec.eq_of_getLsbD_eq
  intro i hi
  simp only [BitVec.getLsbD_extractLsb', BitVec.getLsbD_append, Nat.zero_add, hi, decide_true, Bool.true_and, if_true]

/-- A word is its three fields put together (R151). -/
theorem word_eq_fields (w : Word) : w = opcField w ++ rsvField w ++ symField w := by
  change w = (BitVec.extractLsb' 24 8 w ++ BitVec.extractLsb' 8 16 w ++ BitVec.extractLsb' 0 8 w : BitVec (8 + 16 + 8))
  apply BitVec.eq_of_getLsbD_eq
  intro i hi
  have split := BitVec.getLsbD_append (x := (BitVec.extractLsb' 24 8 w ++ BitVec.extractLsb' 8 16 w : BitVec (8 + 16)))
    (y := BitVec.extractLsb' 0 8 w) (i := i)
  refine Eq.trans ?_ split.symm
  rcases Nat.lt_or_ge i 8 with h | h
  · simp [h]
  · have h1 : ¬ i < 8 := by omega
    rcases Nat.lt_or_ge (i - 8) 16 with h' | h'
    · have h2 : 8 + (i - 8) = i := by omega
      simp only [h1, if_false, BitVec.getLsbD_append, h', if_true, BitVec.getLsbD_extractLsb', h2, decide_true, Bool.true_and]
    · have h2 : ¬ i - 8 < 16 := by omega
      have h3 : i - 8 - 16 < 8 := by omega
      have h4 : 24 + (i - 8 - 16) = i := by omega
      simp only [h1, if_false, BitVec.getLsbD_append, h2, BitVec.getLsbD_extractLsb', h3, h4, decide_true, Bool.true_and]

@[simp] theorem opcField_encode (c : Instr) : opcField (encode c) = c.opcode := opcField_append ..

@[simp] theorem rsvField_encode (c : Instr) : rsvField (encode c) = 0 := rsvField_append ..

@[simp] theorem symField_encode (c : Instr) : symField (encode c) = c.symOperand := symField_append ..

/-- The command that `plainCommand` names has that OPC and no operand (R153). -/
theorem plainCommand_some {opc : Byte} {i : Instr} (h : plainCommand opc = some i) : opc = i.opcode ∧ i.symOperand = 0 := by
  unfold plainCommand at h
  repeat' split at h
  all_goals first
    | (obtain rfl := Option.some.inj h; exact ⟨by assumption, rfl⟩)
    | exact absurd h (by simp)

/-- What the decoder's successful answers say (R154): RSV is 0, the OPC is the command's, and SYM is its operand. -/
theorem decode_ok_fields {w : Word} {i : Instr} (h : decode w = .ok i) :
    rsvField w = 0 ∧ opcField w = i.opcode ∧ symField w = i.symOperand := by
  unfold decode at h
  split at h
  · cases h
  · next hr =>
    split at h
    · cases h; exact ⟨not_not.mp hr, ‹_›, rfl⟩
    · split at h
      · cases h; exact ⟨not_not.mp hr, ‹_›, rfl⟩
      · split at h
        · next hp =>
          split at h
          · next hs =>
            cases h
            have := plainCommand_some hp
            exact ⟨not_not.mp hr, this.1, hs.trans this.2.symm⟩
          · cases h
        · cases h

/-- A word that decodes is its command's word: no bit of it is dropped. -/
theorem decode_ok_word {w : Word} {i : Instr} (h : decode w = .ok i) : w = encode i := by
  have := decode_ok_fields h
  rw [word_eq_fields w, this.1, this.2.1, this.2.2]
  rfl

end Sys2Proof
end

