-- ==== Sys2Proof/Laws/State.lean ====
section
/-! SUPPORT. Laws/State.lean: one lemma for each field and each named update of State: what the update leaves alone, and what it writes. -/

namespace Sys2Proof.Machine

open Sys2Proof

/-! ### raise (R505) -/

@[simp] theorem raise_low (s : State) (e : Err) (w : Word) : (s.raise e w).low = s.low := rfl

@[simp] theorem raise_high (s : State) (e : Err) (w : Word) : (s.raise e w).high = s.high := rfl

@[simp] theorem raise_value (s : State) (e : Err) (w : Word) : (s.raise e w).value = s.value := rfl

@[simp] theorem raise_pending (s : State) (e : Err) (w : Word) : (s.raise e w).pending = s.pending := rfl

@[simp] theorem raise_mode (s : State) (e : Err) (w : Word) : (s.raise e w).mode = s.mode := rfl

@[simp] theorem raise_modelValid (s : State) (e : Err) (w : Word) : (s.raise e w).modelValid = s.modelValid := rfl

@[simp] theorem raise_result (s : State) (e : Err) (w : Word) : (s.raise e w).result = s.result := rfl

@[simp] theorem raise_resultValid (s : State) (e : Err) (w : Word) : (s.raise e w).resultValid = s.resultValid := rfl

@[simp] theorem raise_total (s : State) (e : Err) (w : Word) : (s.raise e w).total = s.total := rfl

@[simp] theorem raise_count (s : State) (e : Err) (w : Word) : (s.raise e w).count = s.count := rfl

@[simp] theorem raise_start (s : State) (e : Err) (w : Word) : (s.raise e w).start = s.start := rfl

@[simp] theorem raise_oacc (s : State) (e : Err) (w : Word) : (s.raise e w).oacc = s.oacc := rfl

@[simp] theorem raise_onb (s : State) (e : Err) (w : Word) : (s.raise e w).onb = s.onb := rfl

@[simp] theorem raise_icache (s : State) (e : Err) (w : Word) : (s.raise e w).icache = s.icache := rfl

@[simp] theorem raise_inb (s : State) (e : Err) (w : Word) : (s.raise e w).inb = s.inb := rfl

@[simp] theorem raise_outQ (s : State) (e : Err) (w : Word) : (s.raise e w).outQ = s.outQ := rfl

@[simp] theorem raise_inQ (s : State) (e : Err) (w : Word) : (s.raise e w).inQ = s.inQ := rfl

@[simp] theorem raise_eos (s : State) (e : Err) (w : Word) : (s.raise e w).eos = s.eos := rfl

@[simp] theorem raise_obl (s : State) (e : Err) (w : Word) : (s.raise e w).obl = s.obl := rfl

@[simp] theorem raise_ibl (s : State) (e : Err) (w : Word) : (s.raise e w).ibl = s.ibl := rfl

@[simp] theorem raise_err (s : State) (e : Err) (w : Word) : (s.raise e w).err = setErrBit s.err e := rfl

@[simp] theorem raise_errCmd (s : State) (e : Err) (w : Word) : (s.raise e w).errCmd = if e = .inOverflow then s.errCmd else w := rfl

@[simp] theorem raise_params (s : State) (e : Err) (w : Word) : (s.raise e w).params = s.params := rfl

@[simp] theorem raise_agenda (s : State) (e : Err) (w : Word) : (s.raise e w).agenda = s.agenda := rfl

@[simp] theorem raise_trace (s : State) (e : Err) (w : Word) : (s.raise e w).trace = s.trace := rfl

@[simp] theorem raise_draws (s : State) (e : Err) (w : Word) : (s.raise e w).draws = s.draws := rfl

/-! ### observe (R211) -/

@[simp] theorem observe_low (s : State) (off : Offset) (v : Word) : (s.observe off v).low = s.low := rfl

@[simp] theorem observe_high (s : State) (off : Offset) (v : Word) : (s.observe off v).high = s.high := rfl

@[simp] theorem observe_value (s : State) (off : Offset) (v : Word) : (s.observe off v).value = s.value := rfl

@[simp] theorem observe_pending (s : State) (off : Offset) (v : Word) : (s.observe off v).pending = s.pending := rfl

@[simp] theorem observe_mode (s : State) (off : Offset) (v : Word) : (s.observe off v).mode = s.mode := rfl

@[simp] theorem observe_modelValid (s : State) (off : Offset) (v : Word) : (s.observe off v).modelValid = s.modelValid := rfl

@[simp] theorem observe_result (s : State) (off : Offset) (v : Word) : (s.observe off v).result = s.result := rfl

@[simp] theorem observe_resultValid (s : State) (off : Offset) (v : Word) : (s.observe off v).resultValid = s.resultValid := rfl

@[simp] theorem observe_total (s : State) (off : Offset) (v : Word) : (s.observe off v).total = s.total := rfl

@[simp] theorem observe_count (s : State) (off : Offset) (v : Word) : (s.observe off v).count = s.count := rfl

@[simp] theorem observe_start (s : State) (off : Offset) (v : Word) : (s.observe off v).start = s.start := rfl

@[simp] theorem observe_oacc (s : State) (off : Offset) (v : Word) : (s.observe off v).oacc = s.oacc := rfl

@[simp] theorem observe_onb (s : State) (off : Offset) (v : Word) : (s.observe off v).onb = s.onb := rfl

@[simp] theorem observe_icache (s : State) (off : Offset) (v : Word) : (s.observe off v).icache = s.icache := rfl

@[simp] theorem observe_inb (s : State) (off : Offset) (v : Word) : (s.observe off v).inb = s.inb := rfl

@[simp] theorem observe_outQ (s : State) (off : Offset) (v : Word) : (s.observe off v).outQ = s.outQ := rfl

@[simp] theorem observe_inQ (s : State) (off : Offset) (v : Word) : (s.observe off v).inQ = s.inQ := rfl

@[simp] theorem observe_eos (s : State) (off : Offset) (v : Word) : (s.observe off v).eos = s.eos := rfl

@[simp] theorem observe_obl (s : State) (off : Offset) (v : Word) : (s.observe off v).obl = s.obl := rfl

@[simp] theorem observe_ibl (s : State) (off : Offset) (v : Word) : (s.observe off v).ibl = s.ibl := rfl

@[simp] theorem observe_err (s : State) (off : Offset) (v : Word) : (s.observe off v).err = s.err := rfl

@[simp] theorem observe_errCmd (s : State) (off : Offset) (v : Word) : (s.observe off v).errCmd = s.errCmd := rfl

@[simp] theorem observe_params (s : State) (off : Offset) (v : Word) : (s.observe off v).params = s.params := rfl

@[simp] theorem observe_agenda (s : State) (off : Offset) (v : Word) : (s.observe off v).agenda = s.agenda := rfl

@[simp] theorem observe_trace (s : State) (off : Offset) (v : Word) : (s.observe off v).trace = s.trace ++ [⟨off, v⟩] := rfl

@[simp] theorem observe_draws (s : State) (off : Offset) (v : Word) : (s.observe off v).draws = s.draws := rfl

/-! ### setCount (R12) -/

@[simp] theorem setCount_low (s : State) (sym : Byte) (v : Word) : (s.setCount sym v).low = s.low := rfl

@[simp] theorem setCount_high (s : State) (sym : Byte) (v : Word) : (s.setCount sym v).high = s.high := rfl

@[simp] theorem setCount_value (s : State) (sym : Byte) (v : Word) : (s.setCount sym v).value = s.value := rfl

@[simp] theorem setCount_pending (s : State) (sym : Byte) (v : Word) : (s.setCount sym v).pending = s.pending := rfl

@[simp] theorem setCount_mode (s : State) (sym : Byte) (v : Word) : (s.setCount sym v).mode = s.mode := rfl

@[simp] theorem setCount_modelValid (s : State) (sym : Byte) (v : Word) : (s.setCount sym v).modelValid = s.modelValid := rfl

@[simp] theorem setCount_result (s : State) (sym : Byte) (v : Word) : (s.setCount sym v).result = s.result := rfl

@[simp] theorem setCount_resultValid (s : State) (sym : Byte) (v : Word) : (s.setCount sym v).resultValid = s.resultValid := rfl

@[simp] theorem setCount_total (s : State) (sym : Byte) (v : Word) : (s.setCount sym v).total = s.total := rfl

@[simp] theorem setCount_count (s : State) (sym : Byte) (v : Word) : (s.setCount sym v).count = s.count.set sym.toNat v sym.isLt := rfl

@[simp] theorem setCount_start (s : State) (sym : Byte) (v : Word) : (s.setCount sym v).start = s.start := rfl

@[simp] theorem setCount_oacc (s : State) (sym : Byte) (v : Word) : (s.setCount sym v).oacc = s.oacc := rfl

@[simp] theorem setCount_onb (s : State) (sym : Byte) (v : Word) : (s.setCount sym v).onb = s.onb := rfl

@[simp] theorem setCount_icache (s : State) (sym : Byte) (v : Word) : (s.setCount sym v).icache = s.icache := rfl

@[simp] theorem setCount_inb (s : State) (sym : Byte) (v : Word) : (s.setCount sym v).inb = s.inb := rfl

@[simp] theorem setCount_outQ (s : State) (sym : Byte) (v : Word) : (s.setCount sym v).outQ = s.outQ := rfl

@[simp] theorem setCount_inQ (s : State) (sym : Byte) (v : Word) : (s.setCount sym v).inQ = s.inQ := rfl

@[simp] theorem setCount_eos (s : State) (sym : Byte) (v : Word) : (s.setCount sym v).eos = s.eos := rfl

@[simp] theorem setCount_obl (s : State) (sym : Byte) (v : Word) : (s.setCount sym v).obl = s.obl := rfl

@[simp] theorem setCount_ibl (s : State) (sym : Byte) (v : Word) : (s.setCount sym v).ibl = s.ibl := rfl

@[simp] theorem setCount_err (s : State) (sym : Byte) (v : Word) : (s.setCount sym v).err = s.err := rfl

@[simp] theorem setCount_errCmd (s : State) (sym : Byte) (v : Word) : (s.setCount sym v).errCmd = s.errCmd := rfl

@[simp] theorem setCount_params (s : State) (sym : Byte) (v : Word) : (s.setCount sym v).params = s.params := rfl

@[simp] theorem setCount_agenda (s : State) (sym : Byte) (v : Word) : (s.setCount sym v).agenda = s.agenda := rfl

@[simp] theorem setCount_trace (s : State) (sym : Byte) (v : Word) : (s.setCount sym v).trace = s.trace := rfl

@[simp] theorem setCount_draws (s : State) (sym : Byte) (v : Word) : (s.setCount sym v).draws = s.draws := rfl

/-! ### popOut (R259) -/

@[simp] theorem popOut_low (s : State) : (s.popOut).low = s.low := rfl

@[simp] theorem popOut_high (s : State) : (s.popOut).high = s.high := rfl

@[simp] theorem popOut_value (s : State) : (s.popOut).value = s.value := rfl

@[simp] theorem popOut_pending (s : State) : (s.popOut).pending = s.pending := rfl

@[simp] theorem popOut_mode (s : State) : (s.popOut).mode = s.mode := rfl

@[simp] theorem popOut_modelValid (s : State) : (s.popOut).modelValid = s.modelValid := rfl

@[simp] theorem popOut_result (s : State) : (s.popOut).result = s.result := rfl

@[simp] theorem popOut_resultValid (s : State) : (s.popOut).resultValid = s.resultValid := rfl

@[simp] theorem popOut_total (s : State) : (s.popOut).total = s.total := rfl

@[simp] theorem popOut_count (s : State) : (s.popOut).count = s.count := rfl

@[simp] theorem popOut_start (s : State) : (s.popOut).start = s.start := rfl

@[simp] theorem popOut_oacc (s : State) : (s.popOut).oacc = s.oacc := rfl

@[simp] theorem popOut_onb (s : State) : (s.popOut).onb = s.onb := rfl

@[simp] theorem popOut_icache (s : State) : (s.popOut).icache = s.icache := rfl

@[simp] theorem popOut_inb (s : State) : (s.popOut).inb = s.inb := rfl

@[simp] theorem popOut_outQ (s : State) : (s.popOut).outQ = s.outQ.tail := rfl

@[simp] theorem popOut_inQ (s : State) : (s.popOut).inQ = s.inQ := rfl

@[simp] theorem popOut_eos (s : State) : (s.popOut).eos = s.eos := rfl

@[simp] theorem popOut_obl (s : State) : (s.popOut).obl = s.obl := rfl

@[simp] theorem popOut_ibl (s : State) : (s.popOut).ibl = s.ibl := rfl

@[simp] theorem popOut_err (s : State) : (s.popOut).err = s.err := rfl

@[simp] theorem popOut_errCmd (s : State) : (s.popOut).errCmd = s.errCmd := rfl

@[simp] theorem popOut_params (s : State) : (s.popOut).params = s.params := rfl

@[simp] theorem popOut_agenda (s : State) : (s.popOut).agenda = s.agenda := rfl

@[simp] theorem popOut_trace (s : State) : (s.popOut).trace = s.trace := rfl

@[simp] theorem popOut_draws (s : State) : (s.popOut).draws = s.draws := rfl

/-! ### decShift (R402) -/

@[simp] theorem decShift_low (s : State) (c : Subtrahend) (bit : Bool) : (s.decShift c bit).low = s.low := rfl

@[simp] theorem decShift_high (s : State) (c : Subtrahend) (bit : Bool) : (s.decShift c bit).high = s.high := rfl

@[simp] theorem decShift_value (s : State) (c : Subtrahend) (bit : Bool) : (s.decShift c bit).value = shiftValue s.value c bit := rfl

@[simp] theorem decShift_pending (s : State) (c : Subtrahend) (bit : Bool) : (s.decShift c bit).pending = s.pending := rfl

@[simp] theorem decShift_mode (s : State) (c : Subtrahend) (bit : Bool) : (s.decShift c bit).mode = s.mode := rfl

@[simp] theorem decShift_modelValid (s : State) (c : Subtrahend) (bit : Bool) : (s.decShift c bit).modelValid = s.modelValid := rfl

@[simp] theorem decShift_result (s : State) (c : Subtrahend) (bit : Bool) : (s.decShift c bit).result = s.result := rfl

@[simp] theorem decShift_resultValid (s : State) (c : Subtrahend) (bit : Bool) : (s.decShift c bit).resultValid = s.resultValid := rfl

@[simp] theorem decShift_total (s : State) (c : Subtrahend) (bit : Bool) : (s.decShift c bit).total = s.total := rfl

@[simp] theorem decShift_count (s : State) (c : Subtrahend) (bit : Bool) : (s.decShift c bit).count = s.count := rfl

@[simp] theorem decShift_start (s : State) (c : Subtrahend) (bit : Bool) : (s.decShift c bit).start = s.start := rfl

@[simp] theorem decShift_oacc (s : State) (c : Subtrahend) (bit : Bool) : (s.decShift c bit).oacc = s.oacc := rfl

@[simp] theorem decShift_onb (s : State) (c : Subtrahend) (bit : Bool) : (s.decShift c bit).onb = s.onb := rfl

@[simp] theorem decShift_icache (s : State) (c : Subtrahend) (bit : Bool) : (s.decShift c bit).icache = s.icache := rfl

@[simp] theorem decShift_inb (s : State) (c : Subtrahend) (bit : Bool) : (s.decShift c bit).inb = s.inb := rfl

@[simp] theorem decShift_outQ (s : State) (c : Subtrahend) (bit : Bool) : (s.decShift c bit).outQ = s.outQ := rfl

@[simp] theorem decShift_inQ (s : State) (c : Subtrahend) (bit : Bool) : (s.decShift c bit).inQ = s.inQ := rfl

@[simp] theorem decShift_eos (s : State) (c : Subtrahend) (bit : Bool) : (s.decShift c bit).eos = s.eos := rfl

@[simp] theorem decShift_obl (s : State) (c : Subtrahend) (bit : Bool) : (s.decShift c bit).obl = s.obl := rfl

@[simp] theorem decShift_ibl (s : State) (c : Subtrahend) (bit : Bool) : (s.decShift c bit).ibl = s.ibl := rfl

@[simp] theorem decShift_err (s : State) (c : Subtrahend) (bit : Bool) : (s.decShift c bit).err = s.err := rfl

@[simp] theorem decShift_errCmd (s : State) (c : Subtrahend) (bit : Bool) : (s.decShift c bit).errCmd = s.errCmd := rfl

@[simp] theorem decShift_params (s : State) (c : Subtrahend) (bit : Bool) : (s.decShift c bit).params = s.params := rfl

@[simp] theorem decShift_agenda (s : State) (c : Subtrahend) (bit : Bool) : (s.decShift c bit).agenda = s.agenda := rfl

@[simp] theorem decShift_trace (s : State) (c : Subtrahend) (bit : Bool) : (s.decShift c bit).trace = s.trace := rfl

@[simp] theorem decShift_draws (s : State) (c : Subtrahend) (bit : Bool) : (s.decShift c bit).draws = s.draws := rfl

/-! ### takeCachedBit (R254) -/

@[simp] theorem takeCachedBit_low (s : State) : (s.takeCachedBit.2).low = s.low := rfl

@[simp] theorem takeCachedBit_high (s : State) : (s.takeCachedBit.2).high = s.high := rfl

@[simp] theorem takeCachedBit_value (s : State) : (s.takeCachedBit.2).value = s.value := rfl

@[simp] theorem takeCachedBit_pending (s : State) : (s.takeCachedBit.2).pending = s.pending := rfl

@[simp] theorem takeCachedBit_mode (s : State) : (s.takeCachedBit.2).mode = s.mode := rfl

@[simp] theorem takeCachedBit_modelValid (s : State) : (s.takeCachedBit.2).modelValid = s.modelValid := rfl

@[simp] theorem takeCachedBit_result (s : State) : (s.takeCachedBit.2).result = s.result := rfl

@[simp] theorem takeCachedBit_resultValid (s : State) : (s.takeCachedBit.2).resultValid = s.resultValid := rfl

@[simp] theorem takeCachedBit_total (s : State) : (s.takeCachedBit.2).total = s.total := rfl

@[simp] theorem takeCachedBit_count (s : State) : (s.takeCachedBit.2).count = s.count := rfl

@[simp] theorem takeCachedBit_start (s : State) : (s.takeCachedBit.2).start = s.start := rfl

@[simp] theorem takeCachedBit_oacc (s : State) : (s.takeCachedBit.2).oacc = s.oacc := rfl

@[simp] theorem takeCachedBit_onb (s : State) : (s.takeCachedBit.2).onb = s.onb := rfl

@[simp] theorem takeCachedBit_icache (s : State) : (s.takeCachedBit.2).icache = s.icache := rfl

@[simp] theorem takeCachedBit_outQ (s : State) : (s.takeCachedBit.2).outQ = s.outQ := rfl

@[simp] theorem takeCachedBit_inQ (s : State) : (s.takeCachedBit.2).inQ = s.inQ := rfl

@[simp] theorem takeCachedBit_eos (s : State) : (s.takeCachedBit.2).eos = s.eos := rfl

@[simp] theorem takeCachedBit_obl (s : State) : (s.takeCachedBit.2).obl = s.obl := rfl

@[simp] theorem takeCachedBit_ibl (s : State) : (s.takeCachedBit.2).ibl = s.ibl := rfl

@[simp] theorem takeCachedBit_err (s : State) : (s.takeCachedBit.2).err = s.err := rfl

@[simp] theorem takeCachedBit_errCmd (s : State) : (s.takeCachedBit.2).errCmd = s.errCmd := rfl

@[simp] theorem takeCachedBit_params (s : State) : (s.takeCachedBit.2).params = s.params := rfl

@[simp] theorem takeCachedBit_agenda (s : State) : (s.takeCachedBit.2).agenda = s.agenda := rfl

@[simp] theorem takeCachedBit_trace (s : State) : (s.takeCachedBit.2).trace = s.trace := rfl

@[simp] theorem takeCachedBit_draws (s : State) : (s.takeCachedBit.2).draws = s.draws := rfl

/-! ### applyReset (R550) -/

@[simp] theorem applyReset_low (s : State) : (s.applyReset).low = 0x0000 := rfl

@[simp] theorem applyReset_high (s : State) : (s.applyReset).high = 0xFFFF := rfl

@[simp] theorem applyReset_value (s : State) : (s.applyReset).value = 0x0000 := rfl

@[simp] theorem applyReset_pending (s : State) : (s.applyReset).pending = 0 := rfl

@[simp] theorem applyReset_mode (s : State) : (s.applyReset).mode = .none := rfl

@[simp] theorem applyReset_modelValid (s : State) : (s.applyReset).modelValid = false := rfl

@[simp] theorem applyReset_result (s : State) : (s.applyReset).result = 0x00 := rfl

@[simp] theorem applyReset_resultValid (s : State) : (s.applyReset).resultValid = false := rfl

@[simp] theorem applyReset_total (s : State) : (s.applyReset).total = Config.resetTotal s.draws := rfl

@[simp] theorem applyReset_count (s : State) : (s.applyReset).count = Vector.ofFn (Config.resetCount s.draws) := rfl

@[simp] theorem applyReset_start (s : State) : (s.applyReset).start = Vector.ofFn (Config.resetStart s.draws) := rfl

@[simp] theorem applyReset_oacc (s : State) : (s.applyReset).oacc = 0 := rfl

@[simp] theorem applyReset_onb (s : State) : (s.applyReset).onb = 0 := rfl

@[simp] theorem applyReset_icache (s : State) : (s.applyReset).icache = 0 := rfl

@[simp] theorem applyReset_inb (s : State) : (s.applyReset).inb = 0 := rfl

@[simp] theorem applyReset_outQ (s : State) : (s.applyReset).outQ = [] := rfl

@[simp] theorem applyReset_inQ (s : State) : (s.applyReset).inQ = [] := rfl

@[simp] theorem applyReset_eos (s : State) : (s.applyReset).eos = false := rfl

@[simp] theorem applyReset_obl (s : State) : (s.applyReset).obl = [] := rfl

@[simp] theorem applyReset_ibl (s : State) : (s.applyReset).ibl = [] := rfl

@[simp] theorem applyReset_err (s : State) : (s.applyReset).err = 0 := rfl

@[simp] theorem applyReset_errCmd (s : State) : (s.applyReset).errCmd = 0 := rfl

@[simp] theorem applyReset_params (s : State) : (s.applyReset).params = s.params := rfl

@[simp] theorem applyReset_agenda (s : State) : (s.applyReset).agenda = s.agenda := rfl

@[simp] theorem applyReset_trace (s : State) : (s.applyReset).trace = s.trace := rfl

@[simp] theorem applyReset_draws (s : State) : (s.applyReset).draws = s.draws + 1 := rfl

/-! ### putBit (R252) -/

@[simp] theorem putBit_low (s : State) (b : Bool) : (s.putBit b).low = s.low := by unfold State.putBit; dsimp only; split <;> rfl

@[simp] theorem putBit_high (s : State) (b : Bool) : (s.putBit b).high = s.high := by unfold State.putBit; dsimp only; split <;> rfl

@[simp] theorem putBit_value (s : State) (b : Bool) : (s.putBit b).value = s.value := by unfold State.putBit; dsimp only; split <;> rfl

@[simp] theorem putBit_pending (s : State) (b : Bool) : (s.putBit b).pending = s.pending := by unfold State.putBit; dsimp only; split <;> rfl

@[simp] theorem putBit_mode (s : State) (b : Bool) : (s.putBit b).mode = s.mode := by unfold State.putBit; dsimp only; split <;> rfl

@[simp] theorem putBit_modelValid (s : State) (b : Bool) : (s.putBit b).modelValid = s.modelValid := by unfold State.putBit; dsimp only; split <;> rfl

@[simp] theorem putBit_result (s : State) (b : Bool) : (s.putBit b).result = s.result := by unfold State.putBit; dsimp only; split <;> rfl

@[simp] theorem putBit_resultValid (s : State) (b : Bool) : (s.putBit b).resultValid = s.resultValid := by unfold State.putBit; dsimp only; split <;> rfl

@[simp] theorem putBit_total (s : State) (b : Bool) : (s.putBit b).total = s.total := by unfold State.putBit; dsimp only; split <;> rfl

@[simp] theorem putBit_count (s : State) (b : Bool) : (s.putBit b).count = s.count := by unfold State.putBit; dsimp only; split <;> rfl

@[simp] theorem putBit_start (s : State) (b : Bool) : (s.putBit b).start = s.start := by unfold State.putBit; dsimp only; split <;> rfl

@[simp] theorem putBit_icache (s : State) (b : Bool) : (s.putBit b).icache = s.icache := by unfold State.putBit; dsimp only; split <;> rfl

@[simp] theorem putBit_inb (s : State) (b : Bool) : (s.putBit b).inb = s.inb := by unfold State.putBit; dsimp only; split <;> rfl

@[simp] theorem putBit_inQ (s : State) (b : Bool) : (s.putBit b).inQ = s.inQ := by unfold State.putBit; dsimp only; split <;> rfl

@[simp] theorem putBit_eos (s : State) (b : Bool) : (s.putBit b).eos = s.eos := by unfold State.putBit; dsimp only; split <;> rfl

@[simp] theorem putBit_obl (s : State) (b : Bool) : (s.putBit b).obl = s.obl := by unfold State.putBit; dsimp only; split <;> rfl

@[simp] theorem putBit_ibl (s : State) (b : Bool) : (s.putBit b).ibl = s.ibl := by unfold State.putBit; dsimp only; split <;> rfl

@[simp] theorem putBit_err (s : State) (b : Bool) : (s.putBit b).err = s.err := by unfold State.putBit; dsimp only; split <;> rfl

@[simp] theorem putBit_errCmd (s : State) (b : Bool) : (s.putBit b).errCmd = s.errCmd := by unfold State.putBit; dsimp only; split <;> rfl

@[simp] theorem putBit_params (s : State) (b : Bool) : (s.putBit b).params = s.params := by unfold State.putBit; dsimp only; split <;> rfl

@[simp] theorem putBit_agenda (s : State) (b : Bool) : (s.putBit b).agenda = s.agenda := by unfold State.putBit; dsimp only; split <;> rfl

@[simp] theorem putBit_trace (s : State) (b : Bool) : (s.putBit b).trace = s.trace := by unfold State.putBit; dsimp only; split <;> rfl

@[simp] theorem putBit_draws (s : State) (b : Bool) : (s.putBit b).draws = s.draws := by unfold State.putBit; dsimp only; split <;> rfl

/-! ### getBit (R254) -/

@[simp] theorem getBit_low (s : State) : (s.getBit.2).low = s.low := by unfold State.getBit; (repeat' split) <;> rfl

@[simp] theorem getBit_high (s : State) : (s.getBit.2).high = s.high := by unfold State.getBit; (repeat' split) <;> rfl

@[simp] theorem getBit_value (s : State) : (s.getBit.2).value = s.value := by unfold State.getBit; (repeat' split) <;> rfl

@[simp] theorem getBit_pending (s : State) : (s.getBit.2).pending = s.pending := by unfold State.getBit; (repeat' split) <;> rfl

@[simp] theorem getBit_mode (s : State) : (s.getBit.2).mode = s.mode := by unfold State.getBit; (repeat' split) <;> rfl

@[simp] theorem getBit_modelValid (s : State) : (s.getBit.2).modelValid = s.modelValid := by unfold State.getBit; (repeat' split) <;> rfl

@[simp] theorem getBit_result (s : State) : (s.getBit.2).result = s.result := by unfold State.getBit; (repeat' split) <;> rfl

@[simp] theorem getBit_resultValid (s : State) : (s.getBit.2).resultValid = s.resultValid := by unfold State.getBit; (repeat' split) <;> rfl

@[simp] theorem getBit_total (s : State) : (s.getBit.2).total = s.total := by unfold State.getBit; (repeat' split) <;> rfl

@[simp] theorem getBit_count (s : State) : (s.getBit.2).count = s.count := by unfold State.getBit; (repeat' split) <;> rfl

@[simp] theorem getBit_start (s : State) : (s.getBit.2).start = s.start := by unfold State.getBit; (repeat' split) <;> rfl

@[simp] theorem getBit_oacc (s : State) : (s.getBit.2).oacc = s.oacc := by unfold State.getBit; (repeat' split) <;> rfl

@[simp] theorem getBit_onb (s : State) : (s.getBit.2).onb = s.onb := by unfold State.getBit; (repeat' split) <;> rfl

@[simp] theorem getBit_outQ (s : State) : (s.getBit.2).outQ = s.outQ := by unfold State.getBit; (repeat' split) <;> rfl

@[simp] theorem getBit_eos (s : State) : (s.getBit.2).eos = s.eos := by unfold State.getBit; (repeat' split) <;> rfl

@[simp] theorem getBit_obl (s : State) : (s.getBit.2).obl = s.obl := by unfold State.getBit; (repeat' split) <;> rfl

@[simp] theorem getBit_ibl (s : State) : (s.getBit.2).ibl = s.ibl := by unfold State.getBit; (repeat' split) <;> rfl

@[simp] theorem getBit_err (s : State) : (s.getBit.2).err = s.err := by unfold State.getBit; (repeat' split) <;> rfl

@[simp] theorem getBit_errCmd (s : State) : (s.getBit.2).errCmd = s.errCmd := by unfold State.getBit; (repeat' split) <;> rfl

@[simp] theorem getBit_params (s : State) : (s.getBit.2).params = s.params := by unfold State.getBit; (repeat' split) <;> rfl

@[simp] theorem getBit_agenda (s : State) : (s.getBit.2).agenda = s.agenda := by unfold State.getBit; (repeat' split) <;> rfl

@[simp] theorem getBit_trace (s : State) : (s.getBit.2).trace = s.trace := by unfold State.getBit; (repeat' split) <;> rfl

@[simp] theorem getBit_draws (s : State) : (s.getBit.2).draws = s.draws := by unfold State.getBit; (repeat' split) <;> rfl

/-! ### pushIn (R260) -/

@[simp] theorem pushIn_low (s : State) (b : Byte) : (s.pushIn b).low = s.low := by unfold State.pushIn; split <;> rfl

@[simp] theorem pushIn_high (s : State) (b : Byte) : (s.pushIn b).high = s.high := by unfold State.pushIn; split <;> rfl

@[simp] theorem pushIn_value (s : State) (b : Byte) : (s.pushIn b).value = s.value := by unfold State.pushIn; split <;> rfl

@[simp] theorem pushIn_pending (s : State) (b : Byte) : (s.pushIn b).pending = s.pending := by unfold State.pushIn; split <;> rfl

@[simp] theorem pushIn_mode (s : State) (b : Byte) : (s.pushIn b).mode = s.mode := by unfold State.pushIn; split <;> rfl

@[simp] theorem pushIn_modelValid (s : State) (b : Byte) : (s.pushIn b).modelValid = s.modelValid := by unfold State.pushIn; split <;> rfl

@[simp] theorem pushIn_result (s : State) (b : Byte) : (s.pushIn b).result = s.result := by unfold State.pushIn; split <;> rfl

@[simp] theorem pushIn_resultValid (s : State) (b : Byte) : (s.pushIn b).resultValid = s.resultValid := by unfold State.pushIn; split <;> rfl

@[simp] theorem pushIn_total (s : State) (b : Byte) : (s.pushIn b).total = s.total := by unfold State.pushIn; split <;> rfl

@[simp] theorem pushIn_count (s : State) (b : Byte) : (s.pushIn b).count = s.count := by unfold State.pushIn; split <;> rfl

@[simp] theorem pushIn_start (s : State) (b : Byte) : (s.pushIn b).start = s.start := by unfold State.pushIn; split <;> rfl

@[simp] theorem pushIn_oacc (s : State) (b : Byte) : (s.pushIn b).oacc = s.oacc := by unfold State.pushIn; split <;> rfl

@[simp] theorem pushIn_onb (s : State) (b : Byte) : (s.pushIn b).onb = s.onb := by unfold State.pushIn; split <;> rfl

@[simp] theorem pushIn_icache (s : State) (b : Byte) : (s.pushIn b).icache = s.icache := by unfold State.pushIn; split <;> rfl

@[simp] theorem pushIn_inb (s : State) (b : Byte) : (s.pushIn b).inb = s.inb := by unfold State.pushIn; split <;> rfl

@[simp] theorem pushIn_outQ (s : State) (b : Byte) : (s.pushIn b).outQ = s.outQ := by unfold State.pushIn; split <;> rfl

@[simp] theorem pushIn_eos (s : State) (b : Byte) : (s.pushIn b).eos = s.eos := by unfold State.pushIn; split <;> rfl

@[simp] theorem pushIn_obl (s : State) (b : Byte) : (s.pushIn b).obl = s.obl := by unfold State.pushIn; split <;> rfl

@[simp] theorem pushIn_ibl (s : State) (b : Byte) : (s.pushIn b).ibl = s.ibl := by unfold State.pushIn; split <;> rfl

@[simp] theorem pushIn_params (s : State) (b : Byte) : (s.pushIn b).params = s.params := by unfold State.pushIn; split <;> rfl

@[simp] theorem pushIn_agenda (s : State) (b : Byte) : (s.pushIn b).agenda = s.agenda := by unfold State.pushIn; split <;> rfl

@[simp] theorem pushIn_trace (s : State) (b : Byte) : (s.pushIn b).trace = s.trace := by unfold State.pushIn; split <;> rfl

@[simp] theorem pushIn_draws (s : State) (b : Byte) : (s.pushIn b).draws = s.draws := by unfold State.pushIn; split <;> rfl

@[simp] theorem pushIn_errCmd (s : State) (b : Byte) : (s.pushIn b).errCmd = s.errCmd := by unfold State.pushIn; split <;> rfl

/-! ### putStep (R205) -/

@[simp] theorem putStep_low (s : State) : (s.putStep).low = s.low := by unfold State.putStep; split <;> simp

@[simp] theorem putStep_high (s : State) : (s.putStep).high = s.high := by unfold State.putStep; split <;> simp

@[simp] theorem putStep_value (s : State) : (s.putStep).value = s.value := by unfold State.putStep; split <;> simp

@[simp] theorem putStep_pending (s : State) : (s.putStep).pending = s.pending := by unfold State.putStep; split <;> simp

@[simp] theorem putStep_mode (s : State) : (s.putStep).mode = s.mode := by unfold State.putStep; split <;> simp

@[simp] theorem putStep_modelValid (s : State) : (s.putStep).modelValid = s.modelValid := by unfold State.putStep; split <;> simp

@[simp] theorem putStep_result (s : State) : (s.putStep).result = s.result := by unfold State.putStep; split <;> simp

@[simp] theorem putStep_resultValid (s : State) : (s.putStep).resultValid = s.resultValid := by unfold State.putStep; split <;> simp

@[simp] theorem putStep_total (s : State) : (s.putStep).total = s.total := by unfold State.putStep; split <;> simp

@[simp] theorem putStep_count (s : State) : (s.putStep).count = s.count := by unfold State.putStep; split <;> simp

@[simp] theorem putStep_start (s : State) : (s.putStep).start = s.start := by unfold State.putStep; split <;> simp

@[simp] theorem putStep_icache (s : State) : (s.putStep).icache = s.icache := by unfold State.putStep; split <;> simp

@[simp] theorem putStep_inb (s : State) : (s.putStep).inb = s.inb := by unfold State.putStep; split <;> simp

@[simp] theorem putStep_inQ (s : State) : (s.putStep).inQ = s.inQ := by unfold State.putStep; split <;> simp

@[simp] theorem putStep_eos (s : State) : (s.putStep).eos = s.eos := by unfold State.putStep; split <;> simp

@[simp] theorem putStep_ibl (s : State) : (s.putStep).ibl = s.ibl := by unfold State.putStep; split <;> simp

@[simp] theorem putStep_err (s : State) : (s.putStep).err = s.err := by unfold State.putStep; split <;> simp

@[simp] theorem putStep_errCmd (s : State) : (s.putStep).errCmd = s.errCmd := by unfold State.putStep; split <;> simp

@[simp] theorem putStep_params (s : State) : (s.putStep).params = s.params := by unfold State.putStep; split <;> simp

@[simp] theorem putStep_agenda (s : State) : (s.putStep).agenda = s.agenda := by unfold State.putStep; split <;> simp

@[simp] theorem putStep_trace (s : State) : (s.putStep).trace = s.trace := by unfold State.putStep; split <;> simp

@[simp] theorem putStep_draws (s : State) : (s.putStep).draws = s.draws := by unfold State.putStep; split <;> simp

/-! ### getStep (R205) -/

@[simp] theorem getStep_low (s : State) : (s.getStep).low = s.low := by unfold State.getStep; split <;> simp

@[simp] theorem getStep_high (s : State) : (s.getStep).high = s.high := by unfold State.getStep; split <;> simp

@[simp] theorem getStep_pending (s : State) : (s.getStep).pending = s.pending := by unfold State.getStep; split <;> simp

@[simp] theorem getStep_mode (s : State) : (s.getStep).mode = s.mode := by unfold State.getStep; split <;> simp

@[simp] theorem getStep_modelValid (s : State) : (s.getStep).modelValid = s.modelValid := by unfold State.getStep; split <;> simp

@[simp] theorem getStep_result (s : State) : (s.getStep).result = s.result := by unfold State.getStep; split <;> simp

@[simp] theorem getStep_resultValid (s : State) : (s.getStep).resultValid = s.resultValid := by unfold State.getStep; split <;> simp

@[simp] theorem getStep_total (s : State) : (s.getStep).total = s.total := by unfold State.getStep; split <;> simp

@[simp] theorem getStep_count (s : State) : (s.getStep).count = s.count := by unfold State.getStep; split <;> simp

@[simp] theorem getStep_start (s : State) : (s.getStep).start = s.start := by unfold State.getStep; split <;> simp

@[simp] theorem getStep_oacc (s : State) : (s.getStep).oacc = s.oacc := by unfold State.getStep; split <;> simp

@[simp] theorem getStep_onb (s : State) : (s.getStep).onb = s.onb := by unfold State.getStep; split <;> simp

@[simp] theorem getStep_outQ (s : State) : (s.getStep).outQ = s.outQ := by unfold State.getStep; split <;> simp

@[simp] theorem getStep_eos (s : State) : (s.getStep).eos = s.eos := by unfold State.getStep; split <;> simp

@[simp] theorem getStep_obl (s : State) : (s.getStep).obl = s.obl := by unfold State.getStep; split <;> simp

@[simp] theorem getStep_err (s : State) : (s.getStep).err = s.err := by unfold State.getStep; split <;> simp

@[simp] theorem getStep_errCmd (s : State) : (s.getStep).errCmd = s.errCmd := by unfold State.getStep; split <;> simp

@[simp] theorem getStep_params (s : State) : (s.getStep).params = s.params := by unfold State.getStep; split <;> simp

@[simp] theorem getStep_agenda (s : State) : (s.getStep).agenda = s.agenda := by unfold State.getStep; split <;> simp

@[simp] theorem getStep_trace (s : State) : (s.getStep).trace = s.trace := by unfold State.getStep; split <;> simp

@[simp] theorem getStep_draws (s : State) : (s.getStep).draws = s.draws := by unfold State.getStep; split <;> simp

/-! ### engineTurn (R205) -/

@[simp] theorem engineTurn_low (s : State) : (s.engineTurn).low = s.low := by unfold State.engineTurn; (repeat' split) <;> simp

@[simp] theorem engineTurn_high (s : State) : (s.engineTurn).high = s.high := by unfold State.engineTurn; (repeat' split) <;> simp

@[simp] theorem engineTurn_pending (s : State) : (s.engineTurn).pending = s.pending := by unfold State.engineTurn; (repeat' split) <;> simp

@[simp] theorem engineTurn_mode (s : State) : (s.engineTurn).mode = s.mode := by unfold State.engineTurn; (repeat' split) <;> simp

@[simp] theorem engineTurn_modelValid (s : State) : (s.engineTurn).modelValid = s.modelValid := by unfold State.engineTurn; (repeat' split) <;> simp

@[simp] theorem engineTurn_result (s : State) : (s.engineTurn).result = s.result := by unfold State.engineTurn; (repeat' split) <;> simp

@[simp] theorem engineTurn_resultValid (s : State) : (s.engineTurn).resultValid = s.resultValid := by unfold State.engineTurn; (repeat' split) <;> simp

@[simp] theorem engineTurn_total (s : State) : (s.engineTurn).total = s.total := by unfold State.engineTurn; (repeat' split) <;> simp

@[simp] theorem engineTurn_count (s : State) : (s.engineTurn).count = s.count := by unfold State.engineTurn; (repeat' split) <;> simp

@[simp] theorem engineTurn_start (s : State) : (s.engineTurn).start = s.start := by unfold State.engineTurn; (repeat' split) <;> simp

@[simp] theorem engineTurn_eos (s : State) : (s.engineTurn).eos = s.eos := by unfold State.engineTurn; (repeat' split) <;> simp

@[simp] theorem engineTurn_err (s : State) : (s.engineTurn).err = s.err := by unfold State.engineTurn; (repeat' split) <;> simp

@[simp] theorem engineTurn_errCmd (s : State) : (s.engineTurn).errCmd = s.errCmd := by unfold State.engineTurn; (repeat' split) <;> simp

@[simp] theorem engineTurn_params (s : State) : (s.engineTurn).params = s.params := by unfold State.engineTurn; (repeat' split) <;> simp

@[simp] theorem engineTurn_agenda (s : State) : (s.engineTurn).agenda = s.agenda := by unfold State.engineTurn; (repeat' split) <;> simp

@[simp] theorem engineTurn_trace (s : State) : (s.engineTurn).trace = s.trace := by unfold State.engineTurn; (repeat' split) <;> simp

@[simp] theorem engineTurn_draws (s : State) : (s.engineTurn).draws = s.draws := by unfold State.engineTurn; (repeat' split) <;> simp

/-! ### Backlogs and BUSY -/

@[simp] theorem putStep_obl (s : State) : s.putStep.obl = s.obl.tail := by unfold State.putStep; split <;> simp [*]

@[simp] theorem getStep_ibl (s : State) : s.getStep.ibl = s.ibl.tail := by unfold State.getStep; split <;> simp [*]

theorem busy_eq_false (s : State) : s.busy = false ↔ s.obl = [] ∧ s.ibl = [] := by simp [State.busy]

theorem busy_eq_true (s : State) : s.busy = true ↔ s.obl ≠ [] ∨ s.ibl ≠ [] := by simp [State.busy]

end Sys2Proof.Machine
end

