-- ==== Sys2Proof/Laws/Ops.lean ====
section
/-! SUPPORT. Laws/Ops.lean: what each shared operation can do, said once: the error check of a command, `issue`, the bits of ERR, the packer, the
unpacker and the FIFOs. -/

namespace Sys2Proof.Machine

open Sys2Proof

/-! ### Words of commands (R153) -/

theorem encode_nop : encode .nop = 0x00000000 := rfl
theorem encode_abort : encode .abort = 0x01000000 := rfl
theorem encode_ftClear : encode .ftClear = 0x10000000 := rfl
theorem encode_ftCommit : encode .ftCommit = 0x12000000 := rfl
theorem encode_encInit : encode .encInit = 0x20000000 := rfl
theorem encode_encFinish : encode .encFinish = 0x22000000 := rfl
theorem encode_decInit : encode .decInit = 0x30000000 := rfl
theorem encode_decSym : encode .decSym = 0x31000000 := rfl
theorem encode_ftInc (sym : Byte) : encode (.ftInc sym) = 0x110000#24 ++ sym :=
  congrArg (fun top : BitVec 24 => top ++ sym) (rfl : (0x11#8 ++ (0 : Half) : BitVec 24) = 0x110000#24)
theorem encode_encSym (sym : Byte) : encode (.encSym sym) = 0x210000#24 ++ sym :=
  congrArg (fun top : BitVec 24 => top ++ sym) (rfl : (0x21#8 ++ (0 : Half) : BitVec 24) = 0x210000#24)

/-! ### Bits of ERR (R501, R505) -/

theorem setErrBit_illegalCmd (e : Byte) : setErrBit e .illegalCmd = e ||| 0x01 := rfl
theorem setErrBit_cmdBusy (e : Byte) : setErrBit e .cmdBusy = e ||| 0x02 := rfl
theorem setErrBit_badMode (e : Byte) : setErrBit e .badMode = e ||| 0x04 := rfl
theorem setErrBit_noModel (e : Byte) : setErrBit e .noModel = e ||| 0x08 := rfl
theorem setErrBit_zeroFreq (e : Byte) : setErrBit e .zeroFreq = e ||| 0x10 := rfl
theorem setErrBit_totalRange (e : Byte) : setErrBit e .totalRange = e ||| 0x20 := rfl
theorem setErrBit_pendingOvf (e : Byte) : setErrBit e .pendingOvf = e ||| 0x40 := rfl
theorem setErrBit_inOverflow (e : Byte) : setErrBit e .inOverflow = e ||| 0x80 := rfl

/-- Raising sets one bit and leaves the others (R505). -/
theorem setErrBit_getLsbD (err : Byte) (e : Err) (n : Nat) (h : n < 8) :
    (setErrBit err e).getLsbD n = (err.getLsbD n || n == e.bit) := by
  interval_cases n <;> cases e <;> simp [setErrBit, Err.bit]

/-- A raised bit makes ERR non-zero (R505). -/
theorem setErrBit_ne_zero (err : Byte) (e : Err) : setErrBit err e ≠ 0 := by
  intro h
  have hb : e.bit < 8 := by cases e <;> decide
  have := setErrBit_getLsbD err e e.bit hb
  rw [h] at this
  simp at this

/-- A raise of a command's error is a record update of ERR and ERR_CMD (R505). -/
theorem raise_eq {e : Err} (h : e ≠ .inOverflow) (s : State) (w : Word) :
    s.raise e w = { s with err := setErrBit s.err e, errCmd := w } := by
  simp [State.raise, h]

/-! ### The error check (R511) -/

theorem firstError_of_busy {s : State} (c : Instr) (h : s.busy = true) : firstError c s = some .cmdBusy := by
  simp [firstError, h]

theorem firstError_nop {s : State} (h : s.busy = false) : firstError .nop s = none := by
  simp [firstError, h, State.wrongMode, requiredMode, needsModel, State.zeroCount, codedSymbol]

theorem firstError_abort {s : State} (h : s.busy = false) : firstError .abort s = none := by
  simp [firstError, h, State.wrongMode, requiredMode, needsModel, State.zeroCount, codedSymbol]

theorem firstError_ftClear {s : State} (h : s.busy = false) : firstError .ftClear s = none := by
  simp [firstError, h, State.wrongMode, requiredMode, needsModel, State.zeroCount, codedSymbol]

theorem firstError_ftInc {s : State} (sym : Byte) (h : s.busy = false) : firstError (.ftInc sym) s = none := by
  simp [firstError, h, State.wrongMode, requiredMode, needsModel, State.zeroCount, codedSymbol]

theorem firstError_ftCommit {s : State} (h : s.busy = false) : firstError .ftCommit s = none := by
  simp [firstError, h, State.wrongMode, requiredMode, needsModel, State.zeroCount, codedSymbol]

theorem firstError_encInit {s : State} (h : s.busy = false) :
    firstError .encInit s = if s.modelValid then none else some .noModel := by
  cases hm : s.modelValid <;> simp [firstError, h, hm, State.wrongMode, requiredMode, needsModel, State.zeroCount, codedSymbol]

theorem firstError_decInit {s : State} (h : s.busy = false) :
    firstError .decInit s = if s.modelValid then none else some .noModel := by
  cases hm : s.modelValid <;> simp [firstError, h, hm, State.wrongMode, requiredMode, needsModel, State.zeroCount, codedSymbol]

theorem firstError_encSym {s : State} (sym : Byte) (h : s.busy = false) :
    firstError (.encSym sym) s =
      if s.mode ≠ .enc then some .badMode else if s.modelValid = false then some .noModel
      else if s.countOf sym = 0 then some .zeroFreq else none := by
  cases hm : s.modelValid <;> by_cases hd : s.mode = .enc <;>
    simp [firstError, h, hm, hd, State.wrongMode, requiredMode, needsModel, State.zeroCount, codedSymbol]

theorem firstError_encFinish {s : State} (h : s.busy = false) :
    firstError .encFinish s = if s.mode ≠ .enc then some .badMode else none := by
  by_cases hd : s.mode = .enc <;>
    simp [firstError, h, hd, State.wrongMode, requiredMode, needsModel, State.zeroCount, codedSymbol]

theorem firstError_decSym {s : State} (h : s.busy = false) :
    firstError .decSym s =
      if s.mode ≠ .dec then some .badMode else if s.modelValid = false then some .noModel else none := by
  cases hm : s.modelValid <;> by_cases hd : s.mode = .dec <;>
    simp [firstError, h, hm, hd, State.wrongMode, requiredMode, needsModel, State.zeroCount, codedSymbol]

/-- The error check never finds ILLEGAL_CMD, and none of the errors raised inside an issue function or by the host's push. -/
theorem firstError_some {c : Instr} {s : State} {e : Err} (h : firstError c s = some e) :
    e = .cmdBusy ∨ e = .badMode ∨ e = .noModel ∨ e = .zeroFreq := by
  unfold firstError at h
  repeat' split at h
  all_goals first
    | (obtain rfl := Option.some.inj h; simp)
    | exact absurd h (by simp)

theorem firstError_none_busy {c : Instr} {s : State} (h : firstError c s = none) : s.busy = false := by
  by_contra hb
  rw [firstError_of_busy c (by simpa using hb)] at h
  cases h

theorem issue_of_some {s : State} {c : Instr} {e : Err} (effect : State → State) (h : firstError c s = some e) :
    s.issue c effect = s.raise e (encode c) := by simp [State.issue, h]

theorem issue_of_none {s : State} {c : Instr} (effect : State → State) (h : firstError c s = none) :
    s.issue c effect = effect s := by simp [State.issue, h]

/-- Everything `issue` can do: it raises the first error and leaves the rest, or the command runs (R203). -/
theorem issue_cases (s : State) (c : Instr) (effect : State → State) :
    (∃ e, firstError c s = some e ∧ s.issue c effect = s.raise e (encode c)) ∨
    (firstError c s = none ∧ s.issue c effect = effect s) := by
  cases h : firstError c s with
  | some e => exact .inl ⟨e, rfl, issue_of_some effect h⟩
  | none => exact .inr ⟨rfl, issue_of_none effect h⟩

/-! ### Packer (R252) -/

theorem putBit_full {s : State} (b : Bool) (h : s.onb = 7) :
    s.putBit b = { s with outQ := s.outQ ++ [s.oacc <<< 1 ||| (BitVec.ofBool b).setWidth 8], oacc := 0, onb := 0 } := by
  simp [State.putBit, h]

theorem putBit_room {s : State} (b : Bool) (h : s.onb ≠ 7) :
    s.putBit b = { s with oacc := s.oacc <<< 1 ||| (BitVec.ofBool b).setWidth 8, onb := s.onb + 1 } := by
  simp [State.putBit, h]

/-- ONB counts up while the byte is not full. -/
theorem onb_succ {n : Fin 8} (h : n ≠ 7) : (n + 1).val = n.val + 1 := by
  revert n; decide

/-- Shifting a bit in at the low end: bit 0 is the new bit, the others move up. -/
theorem shiftIn_getLsbD (a : Byte) (b : Bool) (n : Nat) (h : n < 8) :
    (a <<< 1 ||| (BitVec.ofBool b).setWidth 8).getLsbD n = if n = 0 then b else a.getLsbD (n - 1) := by
  cases b <;> interval_cases n <;> simp

/-! ### Unpacker (R254) -/

/-- GetBit with a cached bit left. -/
theorem getBit_cached {s : State} (h : s.inb ≠ 0) : s.getBit = s.takeCachedBit := by simp [State.getBit, h]

/-- GetBit that refills from IN. -/
theorem getBit_refill {s : State} {b : Byte} {rest : List Byte} (h : s.inb = 0) (hq : s.inQ = b :: rest) :
    s.getBit = { s with icache := b, inb := 8, inQ := rest }.takeCachedBit := by simp [State.getBit, h, hq]

/-- GetBit past the end of the input: 0, and nothing changes (R255). -/
theorem getBit_empty {s : State} (h : s.inb = 0) (hq : s.inQ = []) : s.getBit = (false, s) := by simp [State.getBit, h, hq]

/-! ### Engine steps (R205) -/

/-- PutStep with a full byte: it goes to OUT. -/
theorem putStep_full {s : State} {b : Bool} {rest : List Bool} (ho : s.obl = b :: rest) (h : s.onb = 7) :
    s.putStep =
      { s with obl := rest, outQ := s.outQ ++ [s.oacc <<< 1 ||| (BitVec.ofBool b).setWidth 8], oacc := 0, onb := 0 } := by
  unfold State.putStep
  rw [ho]
  exact putBit_full (s := { s with obl := rest }) b h

/-- PutStep with room in the byte. -/
theorem putStep_room {s : State} {b : Bool} {rest : List Bool} (ho : s.obl = b :: rest) (h : s.onb ≠ 7) :
    s.putStep = { s with obl := rest, oacc := s.oacc <<< 1 ||| (BitVec.ofBool b).setWidth 8, onb := s.onb + 1 } := by
  unfold State.putStep
  rw [ho]
  exact putBit_room (s := { s with obl := rest }) b h

/-- GetStep with a cached bit left. -/
theorem getStep_cached {s : State} {c : Subtrahend} {rest : List Subtrahend} (hi : s.ibl = c :: rest) (h : s.inb ≠ 0) :
    s.getStep =
      { s with
        ibl := rest, value := shiftValue s.value c (s.icache.getLsbD (s.inb.val - 1))
        inb := ⟨s.inb.val - 1, by have := s.inb.isLt; omega⟩ } := by
  unfold State.getStep
  rw [hi]
  dsimp only
  rw [getBit_cached (s := { s with ibl := rest }) h]
  rfl

/-- GetStep that refills from IN. -/
theorem getStep_refill {s : State} {c : Subtrahend} {rest : List Subtrahend} {b : Byte} {bs : List Byte} (hi : s.ibl = c :: rest)
    (h : s.inb = 0) (hq : s.inQ = b :: bs) :
    s.getStep = { s with ibl := rest, value := shiftValue s.value c (b.getLsbD 7), icache := b, inb := 7, inQ := bs } := by
  unfold State.getStep
  rw [hi]
  have := getBit_refill (s := { s with ibl := rest }) h hq
  dsimp only at this ⊢
  rw [this]
  rfl

/-- GetStep past the end of the input. -/
theorem getStep_empty {s : State} {c : Subtrahend} {rest : List Subtrahend} (hi : s.ibl = c :: rest) (h : s.inb = 0)
    (hq : s.inQ = []) : s.getStep = { s with ibl := rest, value := shiftValue s.value c false } := by
  unfold State.getStep
  rw [hi]
  have := getBit_empty (s := { s with ibl := rest }) h hq
  dsimp only at this ⊢
  rw [this]
  rfl

/-! ### Host side of the FIFOs (R259, R260) -/

theorem pushIn_room {s : State} (b : Byte) (h : s.inQ.length < s.params.inDepth) : s.pushIn b = { s with inQ := s.inQ ++ [b] } := by
  simp [State.pushIn, h]

theorem pushIn_full {s : State} (b : Byte) (h : ¬ s.inQ.length < s.params.inDepth) :
    s.pushIn b = { s with err := s.err ||| 0x80 } := by
  simp [State.pushIn, h, State.raise, setErrBit_inOverflow]

theorem outDepth_pos (p : Config.Params) : 0 < p.outDepth := Nat.succ_pos _

theorem inDepth_pos (p : Config.Params) : 0 < p.inDepth := Nat.succ_pos _

theorem outDepth_le (p : Config.Params) : p.outDepth ≤ 65535 := p.outDepthLessOne.isLt

theorem inDepth_le (p : Config.Params) : p.inDepth ≤ 65535 := p.inDepthLessOne.isLt

end Sys2Proof.Machine
end

