-- ==== Sys2Proof/Laws/Coder.lean ====
section
/-! SUPPORT. Laws/Coder.lean: the small lemmas of the range coder: the shift of a bound, the branch tests over naturals, the loops without their
accumulator, the cumulative starts, and the search for a symbol. -/

namespace Sys2Proof.Machine

open Sys2Proof

/-! ### Shifts (R358, R402) -/

theorem shiftLow_toNat {x : Half} (h : x.toNat < 0x8000) : (x <<< 1).toNat = 2 * x.toNat := by
  rw [BitVec.toNat_shiftLeft, Nat.shiftLeft_eq]; omega

theorem shiftLow_or_toNat {x : Half} (bit : Bool) (h : x.toNat < 0x8000) :
    (x <<< 1 ||| (BitVec.ofBool bit).setWidth 16).toNat = 2 * x.toNat + bit.toNat := by
  have even : (x <<< 1).toNat = 2 ^ 1 * x.toNat := by rw [shiftLow_toNat h]; omega
  have small : bit.toNat < 2 ^ 1 := by cases bit <;> decide
  rw [BitVec.toNat_or, even, show ((BitVec.ofBool bit).setWidth 16).toNat = bit.toNat by cases bit <;> rfl,
    ← Nat.two_pow_add_eq_or_of_lt small]

theorem shiftHigh_toNat {x : Half} (h : x.toNat < 0x8000) : (x <<< 1 ||| 1).toNat = 2 * x.toNat + 1 :=
  shiftLow_or_toNat true h

/-- A value minus a subtrahend that does not exceed it (R368, R411). -/
theorem sub_toNat {x c : Half} (h : c.toNat ≤ x.toNat) : (x - c).toNat = x.toNat - c.toNat :=
  BitVec.toNat_sub_of_le (BitVec.le_def.mpr h)

/-- `DecShift` when it neither borrows nor loses a bit (R402, R411). -/
theorem shiftValue_toNat {v : Half} {c : Subtrahend} (bit : Bool) (h : c.val.toNat ≤ v.toNat) (hs : v.toNat - c.val.toNat < 0x8000) :
    (shiftValue v c bit).toNat = 2 * (v.toNat - c.val.toNat) + bit.toNat := by
  unfold shiftValue
  rw [shiftLow_or_toNat bit (by rw [sub_toNat h]; exact hs), sub_toNat h]

/-! ### Constants over naturals (R8) -/

@[simp] theorem half_toNat : Config.half.toNat = 0x8000 := rfl
@[simp] theorem quarter_toNat : Config.quarter.toNat = 0x4000 := rfl
@[simp] theorem threeQuarters_toNat : Config.threeQuarters.toNat = 0xC000 := rfl
@[simp] theorem subtrahend_zero_toNat : Subtrahend.zero.val.toNat = 0 := rfl
@[simp] theorem subtrahend_quarter_toNat : Subtrahend.quarter.val.toNat = 0x4000 := rfl
@[simp] theorem subtrahend_half_toNat : Subtrahend.half.val.toNat = 0x8000 := rfl

/-! ### The branch tests (R353, R359) -/

theorem branchOf_e1 {low high : Half} : branchOf low high = some .e1 ↔ high.toNat < 0x8000 := by
  unfold branchOf
  simp only [BitVec.lt_def, BitVec.le_def, half_toNat, quarter_toNat, threeQuarters_toNat]
  repeat' split
  all_goals simp_all

theorem branchOf_e2 {low high : Half} : branchOf low high = some .e2 ↔ 0x8000 ≤ high.toNat ∧ 0x8000 ≤ low.toNat := by
  unfold branchOf
  simp only [BitVec.lt_def, BitVec.le_def, half_toNat, quarter_toNat, threeQuarters_toNat]
  repeat' split
  all_goals simp_all

theorem branchOf_e3 {low high : Half} :
    branchOf low high = some .e3 ↔
      0x8000 ≤ high.toNat ∧ low.toNat < 0x8000 ∧ 0x4000 ≤ low.toNat ∧ high.toNat < 0xC000 := by
  unfold branchOf
  simp only [BitVec.lt_def, BitVec.le_def, half_toNat, quarter_toNat, threeQuarters_toNat]
  repeat' split
  all_goals simp_all

theorem branchOf_none {low high : Half} :
    branchOf low high = none ↔
      0x8000 ≤ high.toNat ∧ low.toNat < 0x8000 ∧ (low.toNat < 0x4000 ∨ 0xC000 ≤ high.toNat) := by
  unfold branchOf
  simp only [BitVec.lt_def, BitVec.le_def, half_toNat, quarter_toNat, threeQuarters_toNat]
  repeat' split
  all_goals simp_all
  all_goals omega

/-- No branch applies exactly when the interval is settled (R366). -/
theorem settled_iff {low high : Half} : Settled low high ↔ branchOf low high = none := by
  rw [branchOf_none]
  simp only [Settled, BitVec.lt_def, BitVec.le_def, half_toNat, quarter_toNat, threeQuarters_toNat]
  omega

/-! ### The loops without their accumulator -/

theorem renormEncLoop_bits (n : Nat) (low high : Half) (pending : Word) (bits : List Bool) :
    renormEncLoop n low high pending bits =
      (renormEncLoop n low high pending []).map fun r => { r with bits := bits ++ r.bits } := by
  induction n generalizing low high pending bits with
  | zero => simp [renormEncLoop]
  | succ n ih =>
    unfold renormEncLoop
    cases branchOf low high with
    | none => simp
    | some b =>
      cases b with
      | e1 =>
        dsimp only
        rw [ih, ih _ _ _ ([] ++ _)]
        simp [Option.map_map, Function.comp_def]
      | e2 =>
        dsimp only
        rw [ih, ih _ _ _ ([] ++ _)]
        simp [Option.map_map, Function.comp_def]
      | e3 =>
        dsimp only
        split
        · rfl
        · rw [ih]

theorem renormDecLoop_subs (n : Nat) (low high : Half) (subs : List Subtrahend) :
    renormDecLoop n low high subs =
      { renormDecLoop n low high [] with subs := subs ++ (renormDecLoop n low high []).subs } := by
  induction n generalizing low high subs with
  | zero => simp [renormDecLoop]
  | succ n ih =>
    unfold renormDecLoop
    cases branchOf low high with
    | none => simp
    | some b =>
      dsimp only
      rw [ih, ih _ _ ([] ++ _)]
      simp

/-! ### Cumulative starts (R41, R303) -/

theorem cumulative_zero (count : Vector Word 256) : cumulative count 0 = 0 := by simp [cumulative]

theorem cumulative_succ (count : Vector Word 256) {n : Nat} (h : n < 256) :
    cumulative count (n + 1) = cumulative count n + (count[n]).toNat := by
  have hl : n < count.toList.length := by simpa using h
  simp only [cumulative]
  rw [List.take_succ_eq_append_getElem hl]
  simp

/-- A sum of `n` counts is below `n * 2^32`, so every start and the total fit in 40 bits (R303, D12). -/
theorem cumulative_le (count : Vector Word 256) {n : Nat} (h : n ≤ 256) : cumulative count n ≤ n * 0xFFFFFFFF := by
  induction n with
  | zero => simp [cumulative_zero]
  | succ n ih =>
    have := ih (by omega)
    have := (count[n]'(by omega)).isLt
    rw [cumulative_succ count (by omega)]
    omega

theorem cumulative_mono (count : Vector Word 256) {m n : Nat} (h : m ≤ n) (hn : n ≤ 256) : cumulative count m ≤ cumulative count n := by
  induction n with
  | zero => rw [Nat.le_zero.mp h]
  | succ n ih =>
    rcases Nat.lt_or_ge n m with h' | h'
    · rw [show m = n + 1 by omega]
    · have := ih h' (by omega)
      rw [cumulative_succ count (by omega)]
      omega

theorem derivedStarts_toNat (count : Vector Word 256) {n : Nat} (h : n < 257) :
    ((derivedStarts count)[n]).toNat = cumulative count n := by
  have := cumulative_le count (Nat.le_of_lt_succ h)
  simp only [derivedStarts, Vector.getElem_ofFn, BitVec.toNat_ofNat]
  omega

/-! ### Symbols (R152, R307) -/

theorem startOf_eq (s : State) (sym : Byte) : s.startOf sym = (s.start[sym.toNat]?.getD 0).toNat := by
  have : sym.toNat < 257 := Nat.lt_succ_of_lt sym.isLt
  simp [State.startOf, Vector.getElem?_eq_getElem this]

theorem countOf_eq (s : State) (sym : Byte) : s.countOf sym = (s.count[sym.toNat]?.getD 0).toNat := by
  have : sym.toNat < 256 := sym.isLt
  simp [State.countOf, Vector.getElem?_eq_getElem this]

theorem mem_symbols (sym : Byte) : sym ∈ symbols := by
  simp only [symbols, List.mem_map, List.mem_range]
  exact ⟨sym.toNat, sym.isLt, by simp⟩

/-- What the search answers when some symbol qualifies: one that does (R307). -/
theorem covers_lookup {s : State} {fv : Nat} {sym : Byte} (h : s.covers fv sym = true) : s.covers fv (s.lookup fv) = true := by
  unfold State.lookup
  cases hf : symbols.find? (s.covers fv) with
  | none => exact absurd h (by simpa using List.find?_eq_none.mp hf sym (mem_symbols sym))
  | some found => simpa using List.find?_some hf

theorem covers_iff (s : State) (fv : Nat) (sym : Byte) :
    s.covers fv sym = true ↔ s.startOf sym ≤ fv ∧ fv < s.startOf sym + s.countOf sym := by simp [State.covers]

/-! ### A valid table (R42) -/

theorem start_mono {s : State} (h : s.ModelOk) {m n : Nat} (hmn : m ≤ n) (hn : n < 257) :
    (s.start[m]'(Nat.lt_of_le_of_lt hmn hn)).toNat ≤ (s.start[n]).toNat := by
  induction n with
  | zero =>
    obtain rfl : m = 0 := Nat.le_zero.mp hmn
    exact Nat.le_refl _
  | succ n ih =>
    rcases Nat.lt_or_ge n m with h' | h'
    · obtain rfl : m = n + 1 := by omega
      exact Nat.le_refl _
    · have := ih h' (by omega)
      have := h.startSucc n (by omega)
      omega

/-- A symbol's interval ends at TOTAL or before (R42). -/
theorem symbolEnd_le {s : State} (h : s.ModelOk) (sym : Byte) : s.startOf sym + s.countOf sym ≤ s.total.toNat := by
  have h1 := h.startSucc sym.toNat sym.isLt
  have h2 := start_mono h (m := sym.toNat + 1) (n := 256) (by have := sym.isLt; omega) (by omega)
  rw [h.startLast] at h2
  unfold State.startOf State.countOf
  omega

end Sys2Proof.Machine
end

