-- ==== Sys2Proof/Laws/Effects.lean ====
section
/-! SUPPORT. Laws/Effects.lean: for each command's issue function, the fields it leaves alone (its frame), and the fields it always writes. -/

namespace Sys2Proof.Machine

open Sys2Proof

/-! ### ABORT (R213) -/

@[simp] theorem abortEffect_low (s : State) : (abortEffect s).low = 0x0000 := rfl

@[simp] theorem abortEffect_high (s : State) : (abortEffect s).high = 0xFFFF := rfl

@[simp] theorem abortEffect_value (s : State) : (abortEffect s).value = 0x0000 := rfl

@[simp] theorem abortEffect_pending (s : State) : (abortEffect s).pending = 0 := rfl

@[simp] theorem abortEffect_mode (s : State) : (abortEffect s).mode = .none := rfl

@[simp] theorem abortEffect_modelValid (s : State) : (abortEffect s).modelValid = s.modelValid := rfl

@[simp] theorem abortEffect_result (s : State) : (abortEffect s).result = s.result := rfl

@[simp] theorem abortEffect_resultValid (s : State) : (abortEffect s).resultValid = false := rfl

@[simp] theorem abortEffect_total (s : State) : (abortEffect s).total = s.total := rfl

@[simp] theorem abortEffect_count (s : State) : (abortEffect s).count = s.count := rfl

@[simp] theorem abortEffect_start (s : State) : (abortEffect s).start = s.start := rfl

@[simp] theorem abortEffect_oacc (s : State) : (abortEffect s).oacc = 0 := rfl

@[simp] theorem abortEffect_onb (s : State) : (abortEffect s).onb = 0 := rfl

@[simp] theorem abortEffect_icache (s : State) : (abortEffect s).icache = 0 := rfl

@[simp] theorem abortEffect_inb (s : State) : (abortEffect s).inb = 0 := rfl

@[simp] theorem abortEffect_outQ (s : State) : (abortEffect s).outQ = [] := rfl

@[simp] theorem abortEffect_inQ (s : State) : (abortEffect s).inQ = [] := rfl

@[simp] theorem abortEffect_eos (s : State) : (abortEffect s).eos = false := rfl

@[simp] theorem abortEffect_obl (s : State) : (abortEffect s).obl = s.obl := rfl

@[simp] theorem abortEffect_ibl (s : State) : (abortEffect s).ibl = s.ibl := rfl

@[simp] theorem abortEffect_err (s : State) : (abortEffect s).err = s.err := rfl

@[simp] theorem abortEffect_errCmd (s : State) : (abortEffect s).errCmd = s.errCmd := rfl

@[simp] theorem abortEffect_params (s : State) : (abortEffect s).params = s.params := rfl

@[simp] theorem abortEffect_agenda (s : State) : (abortEffect s).agenda = s.agenda := rfl

@[simp] theorem abortEffect_trace (s : State) : (abortEffect s).trace = s.trace := rfl

@[simp] theorem abortEffect_draws (s : State) : (abortEffect s).draws = s.draws := rfl

/-! ### FT_CLEAR (R301) -/

@[simp] theorem ftClearEffect_low (s : State) : (ftClearEffect s).low = s.low := rfl

@[simp] theorem ftClearEffect_high (s : State) : (ftClearEffect s).high = s.high := rfl

@[simp] theorem ftClearEffect_value (s : State) : (ftClearEffect s).value = s.value := rfl

@[simp] theorem ftClearEffect_pending (s : State) : (ftClearEffect s).pending = s.pending := rfl

@[simp] theorem ftClearEffect_mode (s : State) : (ftClearEffect s).mode = s.mode := rfl

@[simp] theorem ftClearEffect_modelValid (s : State) : (ftClearEffect s).modelValid = false := rfl

@[simp] theorem ftClearEffect_result (s : State) : (ftClearEffect s).result = s.result := rfl

@[simp] theorem ftClearEffect_resultValid (s : State) : (ftClearEffect s).resultValid = s.resultValid := rfl

@[simp] theorem ftClearEffect_total (s : State) : (ftClearEffect s).total = s.total := rfl

@[simp] theorem ftClearEffect_count (s : State) : (ftClearEffect s).count = Vector.replicate 256 0 := rfl

@[simp] theorem ftClearEffect_start (s : State) : (ftClearEffect s).start = s.start := rfl

@[simp] theorem ftClearEffect_oacc (s : State) : (ftClearEffect s).oacc = s.oacc := rfl

@[simp] theorem ftClearEffect_onb (s : State) : (ftClearEffect s).onb = s.onb := rfl

@[simp] theorem ftClearEffect_icache (s : State) : (ftClearEffect s).icache = s.icache := rfl

@[simp] theorem ftClearEffect_inb (s : State) : (ftClearEffect s).inb = s.inb := rfl

@[simp] theorem ftClearEffect_outQ (s : State) : (ftClearEffect s).outQ = s.outQ := rfl

@[simp] theorem ftClearEffect_inQ (s : State) : (ftClearEffect s).inQ = s.inQ := rfl

@[simp] theorem ftClearEffect_eos (s : State) : (ftClearEffect s).eos = s.eos := rfl

@[simp] theorem ftClearEffect_obl (s : State) : (ftClearEffect s).obl = s.obl := rfl

@[simp] theorem ftClearEffect_ibl (s : State) : (ftClearEffect s).ibl = s.ibl := rfl

@[simp] theorem ftClearEffect_err (s : State) : (ftClearEffect s).err = s.err := rfl

@[simp] theorem ftClearEffect_errCmd (s : State) : (ftClearEffect s).errCmd = s.errCmd := rfl

@[simp] theorem ftClearEffect_params (s : State) : (ftClearEffect s).params = s.params := rfl

@[simp] theorem ftClearEffect_agenda (s : State) : (ftClearEffect s).agenda = s.agenda := rfl

@[simp] theorem ftClearEffect_trace (s : State) : (ftClearEffect s).trace = s.trace := rfl

@[simp] theorem ftClearEffect_draws (s : State) : (ftClearEffect s).draws = s.draws := rfl

/-! ### FT_INC (R302) -/

@[simp] theorem ftIncEffect_low (sym : Byte) (s : State) : (ftIncEffect sym s).low = s.low := rfl

@[simp] theorem ftIncEffect_high (sym : Byte) (s : State) : (ftIncEffect sym s).high = s.high := rfl

@[simp] theorem ftIncEffect_value (sym : Byte) (s : State) : (ftIncEffect sym s).value = s.value := rfl

@[simp] theorem ftIncEffect_pending (sym : Byte) (s : State) : (ftIncEffect sym s).pending = s.pending := rfl

@[simp] theorem ftIncEffect_mode (sym : Byte) (s : State) : (ftIncEffect sym s).mode = s.mode := rfl

@[simp] theorem ftIncEffect_modelValid (sym : Byte) (s : State) : (ftIncEffect sym s).modelValid = false := rfl

@[simp] theorem ftIncEffect_result (sym : Byte) (s : State) : (ftIncEffect sym s).result = s.result := rfl

@[simp] theorem ftIncEffect_resultValid (sym : Byte) (s : State) : (ftIncEffect sym s).resultValid = s.resultValid := rfl

@[simp] theorem ftIncEffect_total (sym : Byte) (s : State) : (ftIncEffect sym s).total = s.total := rfl

@[simp] theorem ftIncEffect_count (sym : Byte) (s : State) : (ftIncEffect sym s).count = s.count.set sym.toNat (saturatingInc (s.count[sym.toNat]'(sym.isLt))) sym.isLt := rfl

@[simp] theorem ftIncEffect_start (sym : Byte) (s : State) : (ftIncEffect sym s).start = s.start := rfl

@[simp] theorem ftIncEffect_oacc (sym : Byte) (s : State) : (ftIncEffect sym s).oacc = s.oacc := rfl

@[simp] theorem ftIncEffect_onb (sym : Byte) (s : State) : (ftIncEffect sym s).onb = s.onb := rfl

@[simp] theorem ftIncEffect_icache (sym : Byte) (s : State) : (ftIncEffect sym s).icache = s.icache := rfl

@[simp] theorem ftIncEffect_inb (sym : Byte) (s : State) : (ftIncEffect sym s).inb = s.inb := rfl

@[simp] theorem ftIncEffect_outQ (sym : Byte) (s : State) : (ftIncEffect sym s).outQ = s.outQ := rfl

@[simp] theorem ftIncEffect_inQ (sym : Byte) (s : State) : (ftIncEffect sym s).inQ = s.inQ := rfl

@[simp] theorem ftIncEffect_eos (sym : Byte) (s : State) : (ftIncEffect sym s).eos = s.eos := rfl

@[simp] theorem ftIncEffect_obl (sym : Byte) (s : State) : (ftIncEffect sym s).obl = s.obl := rfl

@[simp] theorem ftIncEffect_ibl (sym : Byte) (s : State) : (ftIncEffect sym s).ibl = s.ibl := rfl

@[simp] theorem ftIncEffect_err (sym : Byte) (s : State) : (ftIncEffect sym s).err = s.err := rfl

@[simp] theorem ftIncEffect_errCmd (sym : Byte) (s : State) : (ftIncEffect sym s).errCmd = s.errCmd := rfl

@[simp] theorem ftIncEffect_params (sym : Byte) (s : State) : (ftIncEffect sym s).params = s.params := rfl

@[simp] theorem ftIncEffect_agenda (sym : Byte) (s : State) : (ftIncEffect sym s).agenda = s.agenda := rfl

@[simp] theorem ftIncEffect_trace (sym : Byte) (s : State) : (ftIncEffect sym s).trace = s.trace := rfl

@[simp] theorem ftIncEffect_draws (sym : Byte) (s : State) : (ftIncEffect sym s).draws = s.draws := rfl

/-! ### FT_COMMIT (R303) -/

@[simp] theorem ftCommitEffect_low (s : State) : (ftCommitEffect s).low = s.low := by unfold ftCommitEffect; dsimp only; (repeat' split) <;> rfl

@[simp] theorem ftCommitEffect_high (s : State) : (ftCommitEffect s).high = s.high := by unfold ftCommitEffect; dsimp only; (repeat' split) <;> rfl

@[simp] theorem ftCommitEffect_value (s : State) : (ftCommitEffect s).value = s.value := by unfold ftCommitEffect; dsimp only; (repeat' split) <;> rfl

@[simp] theorem ftCommitEffect_pending (s : State) : (ftCommitEffect s).pending = s.pending := by unfold ftCommitEffect; dsimp only; (repeat' split) <;> rfl

@[simp] theorem ftCommitEffect_mode (s : State) : (ftCommitEffect s).mode = s.mode := by unfold ftCommitEffect; dsimp only; (repeat' split) <;> rfl

@[simp] theorem ftCommitEffect_result (s : State) : (ftCommitEffect s).result = s.result := by unfold ftCommitEffect; dsimp only; (repeat' split) <;> rfl

@[simp] theorem ftCommitEffect_resultValid (s : State) : (ftCommitEffect s).resultValid = s.resultValid := by unfold ftCommitEffect; dsimp only; (repeat' split) <;> rfl

@[simp] theorem ftCommitEffect_total (s : State) : (ftCommitEffect s).total = BitVec.ofNat 40 (cumulative s.count 256) := by unfold ftCommitEffect; dsimp only; (repeat' split) <;> rfl

@[simp] theorem ftCommitEffect_count (s : State) : (ftCommitEffect s).count = s.count := by unfold ftCommitEffect; dsimp only; (repeat' split) <;> rfl

@[simp] theorem ftCommitEffect_start (s : State) : (ftCommitEffect s).start = derivedStarts s.count := by unfold ftCommitEffect; dsimp only; (repeat' split) <;> rfl

@[simp] theorem ftCommitEffect_oacc (s : State) : (ftCommitEffect s).oacc = s.oacc := by unfold ftCommitEffect; dsimp only; (repeat' split) <;> rfl

@[simp] theorem ftCommitEffect_onb (s : State) : (ftCommitEffect s).onb = s.onb := by unfold ftCommitEffect; dsimp only; (repeat' split) <;> rfl

@[simp] theorem ftCommitEffect_icache (s : State) : (ftCommitEffect s).icache = s.icache := by unfold ftCommitEffect; dsimp only; (repeat' split) <;> rfl

@[simp] theorem ftCommitEffect_inb (s : State) : (ftCommitEffect s).inb = s.inb := by unfold ftCommitEffect; dsimp only; (repeat' split) <;> rfl

@[simp] theorem ftCommitEffect_outQ (s : State) : (ftCommitEffect s).outQ = s.outQ := by unfold ftCommitEffect; dsimp only; (repeat' split) <;> rfl

@[simp] theorem ftCommitEffect_inQ (s : State) : (ftCommitEffect s).inQ = s.inQ := by unfold ftCommitEffect; dsimp only; (repeat' split) <;> rfl

@[simp] theorem ftCommitEffect_eos (s : State) : (ftCommitEffect s).eos = s.eos := by unfold ftCommitEffect; dsimp only; (repeat' split) <;> rfl

@[simp] theorem ftCommitEffect_obl (s : State) : (ftCommitEffect s).obl = s.obl := by unfold ftCommitEffect; dsimp only; (repeat' split) <;> rfl

@[simp] theorem ftCommitEffect_ibl (s : State) : (ftCommitEffect s).ibl = s.ibl := by unfold ftCommitEffect; dsimp only; (repeat' split) <;> rfl

@[simp] theorem ftCommitEffect_params (s : State) : (ftCommitEffect s).params = s.params := by unfold ftCommitEffect; dsimp only; (repeat' split) <;> rfl

@[simp] theorem ftCommitEffect_agenda (s : State) : (ftCommitEffect s).agenda = s.agenda := by unfold ftCommitEffect; dsimp only; (repeat' split) <;> rfl

@[simp] theorem ftCommitEffect_trace (s : State) : (ftCommitEffect s).trace = s.trace := by unfold ftCommitEffect; dsimp only; (repeat' split) <;> rfl

@[simp] theorem ftCommitEffect_draws (s : State) : (ftCommitEffect s).draws = s.draws := by unfold ftCommitEffect; dsimp only; (repeat' split) <;> rfl

/-! ### ENC_INIT (R362) -/

@[simp] theorem encInitEffect_low (s : State) : (encInitEffect s).low = 0x0000 := rfl

@[simp] theorem encInitEffect_high (s : State) : (encInitEffect s).high = Config.maxRange := rfl

@[simp] theorem encInitEffect_value (s : State) : (encInitEffect s).value = s.value := rfl

@[simp] theorem encInitEffect_pending (s : State) : (encInitEffect s).pending = 0 := rfl

@[simp] theorem encInitEffect_mode (s : State) : (encInitEffect s).mode = .enc := rfl

@[simp] theorem encInitEffect_modelValid (s : State) : (encInitEffect s).modelValid = s.modelValid := rfl

@[simp] theorem encInitEffect_result (s : State) : (encInitEffect s).result = s.result := rfl

@[simp] theorem encInitEffect_resultValid (s : State) : (encInitEffect s).resultValid = s.resultValid := rfl

@[simp] theorem encInitEffect_total (s : State) : (encInitEffect s).total = s.total := rfl

@[simp] theorem encInitEffect_count (s : State) : (encInitEffect s).count = s.count := rfl

@[simp] theorem encInitEffect_start (s : State) : (encInitEffect s).start = s.start := rfl

@[simp] theorem encInitEffect_oacc (s : State) : (encInitEffect s).oacc = 0 := rfl

@[simp] theorem encInitEffect_onb (s : State) : (encInitEffect s).onb = 0 := rfl

@[simp] theorem encInitEffect_icache (s : State) : (encInitEffect s).icache = s.icache := rfl

@[simp] theorem encInitEffect_inb (s : State) : (encInitEffect s).inb = s.inb := rfl

@[simp] theorem encInitEffect_outQ (s : State) : (encInitEffect s).outQ = s.outQ := rfl

@[simp] theorem encInitEffect_inQ (s : State) : (encInitEffect s).inQ = s.inQ := rfl

@[simp] theorem encInitEffect_eos (s : State) : (encInitEffect s).eos = s.eos := rfl

@[simp] theorem encInitEffect_obl (s : State) : (encInitEffect s).obl = s.obl := rfl

@[simp] theorem encInitEffect_ibl (s : State) : (encInitEffect s).ibl = s.ibl := rfl

@[simp] theorem encInitEffect_err (s : State) : (encInitEffect s).err = s.err := rfl

@[simp] theorem encInitEffect_errCmd (s : State) : (encInitEffect s).errCmd = s.errCmd := rfl

@[simp] theorem encInitEffect_params (s : State) : (encInitEffect s).params = s.params := rfl

@[simp] theorem encInitEffect_agenda (s : State) : (encInitEffect s).agenda = s.agenda := rfl

@[simp] theorem encInitEffect_trace (s : State) : (encInitEffect s).trace = s.trace := rfl

@[simp] theorem encInitEffect_draws (s : State) : (encInitEffect s).draws = s.draws := rfl

/-! ### ENC_SYM (R363) -/

@[simp] theorem encSymEffect_value (sym : Byte) (s : State) : (encSymEffect sym s).value = s.value := by unfold encSymEffect; dsimp only; split <;> rfl

@[simp] theorem encSymEffect_modelValid (sym : Byte) (s : State) : (encSymEffect sym s).modelValid = s.modelValid := by unfold encSymEffect; dsimp only; split <;> rfl

@[simp] theorem encSymEffect_result (sym : Byte) (s : State) : (encSymEffect sym s).result = s.result := by unfold encSymEffect; dsimp only; split <;> rfl

@[simp] theorem encSymEffect_resultValid (sym : Byte) (s : State) : (encSymEffect sym s).resultValid = s.resultValid := by unfold encSymEffect; dsimp only; split <;> rfl

@[simp] theorem encSymEffect_total (sym : Byte) (s : State) : (encSymEffect sym s).total = s.total := by unfold encSymEffect; dsimp only; split <;> rfl

@[simp] theorem encSymEffect_count (sym : Byte) (s : State) : (encSymEffect sym s).count = s.count := by unfold encSymEffect; dsimp only; split <;> rfl

@[simp] theorem encSymEffect_start (sym : Byte) (s : State) : (encSymEffect sym s).start = s.start := by unfold encSymEffect; dsimp only; split <;> rfl

@[simp] theorem encSymEffect_oacc (sym : Byte) (s : State) : (encSymEffect sym s).oacc = s.oacc := by unfold encSymEffect; dsimp only; split <;> rfl

@[simp] theorem encSymEffect_onb (sym : Byte) (s : State) : (encSymEffect sym s).onb = s.onb := by unfold encSymEffect; dsimp only; split <;> rfl

@[simp] theorem encSymEffect_icache (sym : Byte) (s : State) : (encSymEffect sym s).icache = s.icache := by unfold encSymEffect; dsimp only; split <;> rfl

@[simp] theorem encSymEffect_inb (sym : Byte) (s : State) : (encSymEffect sym s).inb = s.inb := by unfold encSymEffect; dsimp only; split <;> rfl

@[simp] theorem encSymEffect_outQ (sym : Byte) (s : State) : (encSymEffect sym s).outQ = s.outQ := by unfold encSymEffect; dsimp only; split <;> rfl

@[simp] theorem encSymEffect_inQ (sym : Byte) (s : State) : (encSymEffect sym s).inQ = s.inQ := by unfold encSymEffect; dsimp only; split <;> rfl

@[simp] theorem encSymEffect_eos (sym : Byte) (s : State) : (encSymEffect sym s).eos = s.eos := by unfold encSymEffect; dsimp only; split <;> rfl

@[simp] theorem encSymEffect_ibl (sym : Byte) (s : State) : (encSymEffect sym s).ibl = s.ibl := by unfold encSymEffect; dsimp only; split <;> rfl

@[simp] theorem encSymEffect_params (sym : Byte) (s : State) : (encSymEffect sym s).params = s.params := by unfold encSymEffect; dsimp only; split <;> rfl

@[simp] theorem encSymEffect_agenda (sym : Byte) (s : State) : (encSymEffect sym s).agenda = s.agenda := by unfold encSymEffect; dsimp only; split <;> rfl

@[simp] theorem encSymEffect_trace (sym : Byte) (s : State) : (encSymEffect sym s).trace = s.trace := by unfold encSymEffect; dsimp only; split <;> rfl

@[simp] theorem encSymEffect_draws (sym : Byte) (s : State) : (encSymEffect sym s).draws = s.draws := by unfold encSymEffect; dsimp only; split <;> rfl

/-! ### ENC_FINISH (R364) -/

@[simp] theorem encFinishEffect_low (s : State) : (encFinishEffect s).low = s.low := by unfold encFinishEffect; dsimp only; split <;> rfl

@[simp] theorem encFinishEffect_high (s : State) : (encFinishEffect s).high = s.high := by unfold encFinishEffect; dsimp only; split <;> rfl

@[simp] theorem encFinishEffect_value (s : State) : (encFinishEffect s).value = s.value := by unfold encFinishEffect; dsimp only; split <;> rfl

@[simp] theorem encFinishEffect_mode (s : State) : (encFinishEffect s).mode = .none := by unfold encFinishEffect; dsimp only; split <;> rfl

@[simp] theorem encFinishEffect_modelValid (s : State) : (encFinishEffect s).modelValid = s.modelValid := by unfold encFinishEffect; dsimp only; split <;> rfl

@[simp] theorem encFinishEffect_result (s : State) : (encFinishEffect s).result = s.result := by unfold encFinishEffect; dsimp only; split <;> rfl

@[simp] theorem encFinishEffect_resultValid (s : State) : (encFinishEffect s).resultValid = s.resultValid := by unfold encFinishEffect; dsimp only; split <;> rfl

@[simp] theorem encFinishEffect_total (s : State) : (encFinishEffect s).total = s.total := by unfold encFinishEffect; dsimp only; split <;> rfl

@[simp] theorem encFinishEffect_count (s : State) : (encFinishEffect s).count = s.count := by unfold encFinishEffect; dsimp only; split <;> rfl

@[simp] theorem encFinishEffect_start (s : State) : (encFinishEffect s).start = s.start := by unfold encFinishEffect; dsimp only; split <;> rfl

@[simp] theorem encFinishEffect_oacc (s : State) : (encFinishEffect s).oacc = s.oacc := by unfold encFinishEffect; dsimp only; split <;> rfl

@[simp] theorem encFinishEffect_onb (s : State) : (encFinishEffect s).onb = s.onb := by unfold encFinishEffect; dsimp only; split <;> rfl

@[simp] theorem encFinishEffect_icache (s : State) : (encFinishEffect s).icache = s.icache := by unfold encFinishEffect; dsimp only; split <;> rfl

@[simp] theorem encFinishEffect_inb (s : State) : (encFinishEffect s).inb = s.inb := by unfold encFinishEffect; dsimp only; split <;> rfl

@[simp] theorem encFinishEffect_outQ (s : State) : (encFinishEffect s).outQ = s.outQ := by unfold encFinishEffect; dsimp only; split <;> rfl

@[simp] theorem encFinishEffect_inQ (s : State) : (encFinishEffect s).inQ = s.inQ := by unfold encFinishEffect; dsimp only; split <;> rfl

@[simp] theorem encFinishEffect_eos (s : State) : (encFinishEffect s).eos = s.eos := by unfold encFinishEffect; dsimp only; split <;> rfl

@[simp] theorem encFinishEffect_ibl (s : State) : (encFinishEffect s).ibl = s.ibl := by unfold encFinishEffect; dsimp only; split <;> rfl

@[simp] theorem encFinishEffect_params (s : State) : (encFinishEffect s).params = s.params := by unfold encFinishEffect; dsimp only; split <;> rfl

@[simp] theorem encFinishEffect_agenda (s : State) : (encFinishEffect s).agenda = s.agenda := by unfold encFinishEffect; dsimp only; split <;> rfl

@[simp] theorem encFinishEffect_trace (s : State) : (encFinishEffect s).trace = s.trace := by unfold encFinishEffect; dsimp only; split <;> rfl

@[simp] theorem encFinishEffect_draws (s : State) : (encFinishEffect s).draws = s.draws := by unfold encFinishEffect; dsimp only; split <;> rfl

/-! ### DEC_INIT (R406) -/

@[simp] theorem decInitEffect_low (s : State) : (decInitEffect s).low = 0x0000 := rfl

@[simp] theorem decInitEffect_high (s : State) : (decInitEffect s).high = Config.maxRange := rfl

@[simp] theorem decInitEffect_value (s : State) : (decInitEffect s).value = 0x0000 := rfl

@[simp] theorem decInitEffect_pending (s : State) : (decInitEffect s).pending = s.pending := rfl

@[simp] theorem decInitEffect_mode (s : State) : (decInitEffect s).mode = .dec := rfl

@[simp] theorem decInitEffect_modelValid (s : State) : (decInitEffect s).modelValid = s.modelValid := rfl

@[simp] theorem decInitEffect_result (s : State) : (decInitEffect s).result = s.result := rfl

@[simp] theorem decInitEffect_resultValid (s : State) : (decInitEffect s).resultValid = false := rfl

@[simp] theorem decInitEffect_total (s : State) : (decInitEffect s).total = s.total := rfl

@[simp] theorem decInitEffect_count (s : State) : (decInitEffect s).count = s.count := rfl

@[simp] theorem decInitEffect_start (s : State) : (decInitEffect s).start = s.start := rfl

@[simp] theorem decInitEffect_oacc (s : State) : (decInitEffect s).oacc = s.oacc := rfl

@[simp] theorem decInitEffect_onb (s : State) : (decInitEffect s).onb = s.onb := rfl

@[simp] theorem decInitEffect_icache (s : State) : (decInitEffect s).icache = 0 := rfl

@[simp] theorem decInitEffect_inb (s : State) : (decInitEffect s).inb = 0 := rfl

@[simp] theorem decInitEffect_outQ (s : State) : (decInitEffect s).outQ = s.outQ := rfl

@[simp] theorem decInitEffect_inQ (s : State) : (decInitEffect s).inQ = s.inQ := rfl

@[simp] theorem decInitEffect_eos (s : State) : (decInitEffect s).eos = s.eos := rfl

@[simp] theorem decInitEffect_obl (s : State) : (decInitEffect s).obl = s.obl := rfl

@[simp] theorem decInitEffect_ibl (s : State) : (decInitEffect s).ibl = List.replicate Config.primeBits .zero := rfl

@[simp] theorem decInitEffect_err (s : State) : (decInitEffect s).err = s.err := rfl

@[simp] theorem decInitEffect_errCmd (s : State) : (decInitEffect s).errCmd = s.errCmd := rfl

@[simp] theorem decInitEffect_params (s : State) : (decInitEffect s).params = s.params := rfl

@[simp] theorem decInitEffect_agenda (s : State) : (decInitEffect s).agenda = s.agenda := rfl

@[simp] theorem decInitEffect_trace (s : State) : (decInitEffect s).trace = s.trace := rfl

@[simp] theorem decInitEffect_draws (s : State) : (decInitEffect s).draws = s.draws := rfl

/-! ### DEC_SYM (R407) -/

@[simp] theorem decSymEffect_value (s : State) : (decSymEffect s).value = s.value := rfl

@[simp] theorem decSymEffect_pending (s : State) : (decSymEffect s).pending = s.pending := rfl

@[simp] theorem decSymEffect_mode (s : State) : (decSymEffect s).mode = s.mode := rfl

@[simp] theorem decSymEffect_modelValid (s : State) : (decSymEffect s).modelValid = s.modelValid := rfl

@[simp] theorem decSymEffect_result (s : State) : (decSymEffect s).result = s.lookup s.freqVal := rfl

@[simp] theorem decSymEffect_resultValid (s : State) : (decSymEffect s).resultValid = true := rfl

@[simp] theorem decSymEffect_total (s : State) : (decSymEffect s).total = s.total := rfl

@[simp] theorem decSymEffect_count (s : State) : (decSymEffect s).count = s.count := rfl

@[simp] theorem decSymEffect_start (s : State) : (decSymEffect s).start = s.start := rfl

@[simp] theorem decSymEffect_oacc (s : State) : (decSymEffect s).oacc = s.oacc := rfl

@[simp] theorem decSymEffect_onb (s : State) : (decSymEffect s).onb = s.onb := rfl

@[simp] theorem decSymEffect_icache (s : State) : (decSymEffect s).icache = s.icache := rfl

@[simp] theorem decSymEffect_inb (s : State) : (decSymEffect s).inb = s.inb := rfl

@[simp] theorem decSymEffect_outQ (s : State) : (decSymEffect s).outQ = s.outQ := rfl

@[simp] theorem decSymEffect_inQ (s : State) : (decSymEffect s).inQ = s.inQ := rfl

@[simp] theorem decSymEffect_eos (s : State) : (decSymEffect s).eos = s.eos := rfl

@[simp] theorem decSymEffect_obl (s : State) : (decSymEffect s).obl = s.obl := rfl

@[simp] theorem decSymEffect_err (s : State) : (decSymEffect s).err = s.err := rfl

@[simp] theorem decSymEffect_errCmd (s : State) : (decSymEffect s).errCmd = s.errCmd := rfl

@[simp] theorem decSymEffect_params (s : State) : (decSymEffect s).params = s.params := rfl

@[simp] theorem decSymEffect_agenda (s : State) : (decSymEffect s).agenda = s.agenda := rfl

@[simp] theorem decSymEffect_trace (s : State) : (decSymEffect s).trace = s.trace := rfl

@[simp] theorem decSymEffect_draws (s : State) : (decSymEffect s).draws = s.draws := rfl

/-! ### The branches of the three commands that have them -/

/-- FT_COMMIT of a zero total (R303). -/
theorem ftCommitEffect_zero {s : State} (h : cumulative s.count 256 = 0) :
    ftCommitEffect s =
      { s with start := derivedStarts s.count, total := BitVec.ofNat 40 (cumulative s.count 256), modelValid := false } := by
  simp only [ftCommitEffect, if_pos h]

/-- FT_COMMIT of a legal total (R303). -/
theorem ftCommitEffect_accepted {s : State} (h : cumulative s.count 256 ≠ 0) (hm : cumulative s.count 256 ≤ Config.maxTotal) :
    ftCommitEffect s =
      { s with start := derivedStarts s.count, total := BitVec.ofNat 40 (cumulative s.count 256), modelValid := true } := by
  simp only [ftCommitEffect, if_neg h, gt_iff_lt, if_neg (Nat.not_lt.mpr hm)]

/-- FT_COMMIT of a total above MAX_TOTAL (R303, R508). -/
theorem ftCommitEffect_refused {s : State} (hm : Config.maxTotal < cumulative s.count 256) :
    ftCommitEffect s =
      { s with
        start := derivedStarts s.count, total := BitVec.ofNat 40 (cumulative s.count 256), modelValid := false
        err := s.err ||| 0x20, errCmd := encode .ftCommit } := by
  simp only [ftCommitEffect, if_neg (Nat.ne_zero_of_lt hm), gt_iff_lt, if_pos hm]
  rfl

/-- A pending overflow (R509). -/
theorem overflowPending_eq (s : State) (c : Instr) :
    s.overflowPending c = { s with mode := .none, err := s.err ||| 0x40, errCmd := encode c } := rfl

/-- ENC_SYM whose renormalization overflows (R361). -/
theorem encSymEffect_overflow {s : State} {sym : Byte}
    (h : renormEnc (s.narrow sym s.low s.high).1 (s.narrow sym s.low s.high).2 s.pending = none) :
    encSymEffect sym s = s.overflowPending (.encSym sym) := by
  simp only [encSymEffect, h]

/-- ENC_SYM (R363). -/
theorem encSymEffect_coded {s : State} {sym : Byte} {r : EncResult}
    (h : renormEnc (s.narrow sym s.low s.high).1 (s.narrow sym s.low s.high).2 s.pending = some r) :
    encSymEffect sym s = { s with low := r.low, high := r.high, pending := r.pending, obl := r.bits } := by
  simp only [encSymEffect, h]

/-- ENC_FINISH at the maximum of PENDING (R361, R364). -/
theorem encFinishEffect_overflow {s : State} (h : s.pending = Config.maxPending) : encFinishEffect s = s.overflowPending .encFinish :=
  if_pos h

/-- ENC_FINISH (R364). -/
theorem encFinishEffect_done {s : State} (h : s.pending ≠ Config.maxPending) :
    encFinishEffect s =
      { s with
        obl := finishBits s.low s.pending ++ padBits ((s.onb.val + (finishBits s.low s.pending).length) % 8)
        pending := 0, mode := .none } :=
  if_neg h

/-- One terminating bit, and PENDING + 1 more (R364). -/
theorem finishBits_length (low : Half) (pending : Word) : (finishBits low pending).length = pending.toNat + 2 := by
  unfold finishBits
  split <;> simp

/-! ### Every command -/

/-- The issue function of each command. -/
def effectOf : Instr → State → State
  | .nop => id
  | .abort => abortEffect
  | .ftClear => ftClearEffect
  | .ftInc sym => ftIncEffect sym
  | .ftCommit => ftCommitEffect
  | .encInit => encInitEffect
  | .encSym sym => encSymEffect sym
  | .encFinish => encFinishEffect
  | .decInit => decInitEffect
  | .decSym => decSymEffect

/-- Every meaning is its issue function behind the error check (R203). -/
theorem exec_eq (i : Instr) (s : State) : exec i s = .next (s.issue i (effectOf i)) := by cases i <;> rfl

/-- Everything a command can do: raise its first error and leave the rest, or run (R203, R512). -/
theorem exec_cases {i : Instr} {s t : State} (h : exec i s = .next t) :
    (∃ e, firstError i s = some e ∧ t = s.raise e (encode i)) ∨ (firstError i s = none ∧ t = effectOf i s) := by
  rw [exec_eq] at h
  cases h
  exact issue_cases s i (effectOf i)

end Sys2Proof.Machine
end

