-- ==== Sys2Proof/Laws/PerInstr.lean ====
section
/-! SUPPORT. Laws/PerInstr.lean: what holds of every command as syntax, one lemma for each constructor. -/

namespace Sys2Proof.Laws.TableRow

open Sys2Proof

/-- A command's word is of its row of the opcode map, its SYM field is its operand, it is a legal word and the command is well formed (R151 to R155). -/
def Statement (i : Instr) : Prop :=
  i.row ∈ opcodeMap ∧ encode i &&& i.row.mask = i.row.matchWord ∧ symField (encode i) = i.symOperand ∧
    wordWellFormed (encode i) = true ∧ i.wellFormed = true

theorem nop : Statement .nop := by unfold Statement; decide

theorem abort : Statement .abort := by unfold Statement; decide

theorem ftClear : Statement .ftClear := by unfold Statement; decide

theorem ftInc (sym : Byte) : Statement (.ftInc sym) := by
  unfold Statement
  revert sym
  decide

theorem ftCommit : Statement .ftCommit := by unfold Statement; decide

theorem encInit : Statement .encInit := by unfold Statement; decide

theorem encSym (sym : Byte) : Statement (.encSym sym) := by
  unfold Statement
  revert sym
  decide

theorem encFinish : Statement .encFinish := by unfold Statement; decide

theorem decInit : Statement .decInit := by unfold Statement; decide

theorem decSym : Statement .decSym := by unfold Statement; decide

end Sys2Proof.Laws.TableRow
end

