-- ==== Sys2Proof/Laws/Step.lean ====
section
/-! SUPPORT. Laws/Step.lean: everything one step can do, said once: the four kinds of event, and the kinds of host write. -/

namespace Sys2Proof.Machine

open Sys2Proof

/-- Everything one step can do. -/
theorem step_cases {s t : State} (h : step s = .next t) :
    (∃ rest, (s.agenda = [] ∧ rest = [] ∨ s.agenda = .engine :: rest) ∧ t = { s with agenda := rest }.engineTurn) ∨
    (∃ off rest, s.agenda = .host (.read off) :: rest ∧ t = busRead off { s with agenda := rest }) ∨
    (∃ off v rest, s.agenda = .host (.write off v) :: rest ∧ busWrite off v { s with agenda := rest } = .next t) ∨
    (∃ rest, s.agenda = .reset :: rest ∧ t = { s with agenda := rest }.applyReset) := by
  unfold step at h
  split at h
  · next ha =>
    cases h
    exact .inl ⟨[], .inl ⟨ha, rfl⟩, by rw [← ha]⟩
  · next e rest ha =>
    match e, h with
    | .engine, h => cases h; exact .inl ⟨rest, .inr ha, rfl⟩
    | .host (.read off), h => cases h; exact .inr (.inl ⟨off, rest, ha, rfl⟩)
    | .host (.write off v), h => exact .inr (.inr (.inl ⟨off, v, rest, ha, h⟩))
    | .reset, h => cases h; exact .inr (.inr (.inr ⟨rest, ha, rfl⟩))

/-- Everything the command port can do (R202, R203). -/
theorem commandPort_cases {w : Word} {s t : State} (h : commandPort w s = .next t) :
    (s.busy = true ∧ t = s.raise .cmdBusy w) ∨
    (s.busy = false ∧ (∃ why, decode w = .error why) ∧ t = s.raise .illegalCmd w) ∨
    (s.busy = false ∧ ∃ i, decode w = .ok i ∧ exec i s = .next t) := by
  unfold commandPort issueWord at h
  split at h
  · next hb => cases h; exact .inl ⟨hb, rfl⟩
  · next hb =>
    have hb : s.busy = false := by simpa using hb
    split at h
    · next why hd => cases h; exact .inr (.inl ⟨hb, ⟨why, hd⟩, rfl⟩)
    · next i hd => exact .inr (.inr ⟨hb, i, hd, h⟩)

/-- Everything a host write can do (R103). -/
theorem busWrite_cases {off : Offset} {v : Word} {s t : State} (h : busWrite off v s = .next t) :
    (registerAt off = .cmd ∧ commandPort v s = .next t) ∨
    (registerAt off = .err ∧ t = { s with err := clearErrBits s.err v }) ∨
    (registerAt off = .inData ∧ t = s.pushIn (v.setWidth 8)) ∨
    (registerAt off = .inCtrl ∧ t = { s with eos := v.getLsbD 0 }) ∨
    (∃ sym, registerAt off = .count sym ∧ t = { s.setCount sym v with modelValid := false }) ∨
    (registerAt off ≠ .cmd ∧ registerAt off ≠ .err ∧ registerAt off ≠ .inData ∧ registerAt off ≠ .inCtrl ∧
      (∀ sym, registerAt off ≠ .count sym) ∧ t = s) := by
  unfold busWrite at h
  split at h
  case h_1 hr => exact .inl ⟨hr, h⟩
  case h_2 hr => cases h; exact .inr (.inl ⟨hr, rfl⟩)
  case h_3 hr => cases h; exact .inr (.inr (.inl ⟨hr, rfl⟩))
  case h_4 hr => cases h; exact .inr (.inr (.inr (.inl ⟨hr, rfl⟩)))
  case h_5 sym hr => cases h; exact .inr (.inr (.inr (.inr (.inl ⟨sym, hr, rfl⟩))))
  all_goals
    cases h
    refine .inr (.inr (.inr (.inr (.inr ⟨?_, ?_, ?_, ?_, ?_, rfl⟩))))
    all_goals simp_all

/-- The event list does not matter to whether the block is BUSY. -/
@[simp] theorem busy_agenda (s : State) (rest : List Event) : { s with agenda := rest }.busy = s.busy := rfl

@[simp] theorem firstError_agenda (i : Instr) (s : State) (rest : List Event) :
    firstError i { s with agenda := rest } = firstError i s := rfl

/-- CMD is the register at offset 0x000 (R49). -/
theorem registerAt_cmd : registerAt 0x000 = .cmd := by decide

/-- A read changes the reply list and, for OUT_DATA, OUT; every other field of the state is kept (R102). -/
theorem busRead_keeps {α : Type} (f : State → α) (hf : ∀ (s : State) (q : List Byte) (tr : List Reply), f { s with outQ := q, trace := tr } = f s)
    (off : Offset) (s : State) : f (busRead off s) = f s := by
  unfold busRead State.afterRead
  split
  · exact hf s s.outQ.tail _
  · exact hf s s.outQ _

/-- Everything a host write can do, down to the commands: what it writes and what the event was. -/
theorem write_effects {s t : State} {off : Offset} {v : Word} {rest : List Event} (ha : s.agenda = .host (.write off v) :: rest)
    (hw : busWrite off v { s with agenda := rest } = .next t) :
    (∃ e, s.nextCommand v rest ∧ e ≠ .inOverflow ∧ t = { s with agenda := rest }.raise e v) ∨
    (∃ i, s.nextRuns i ∧ s.nextCommand (encode i) rest ∧ firstError i { s with agenda := rest } = none ∧
      t = effectOf i { s with agenda := rest }) ∨
    (s.nextWrite .err v rest ∧ t = { s with agenda := rest, err := clearErrBits s.err v }) ∨
    (s.nextWrite .inData v rest ∧ t = { s with agenda := rest }.pushIn (v.setWidth 8)) ∨
    (s.nextWrite .inCtrl v rest ∧ t = { s with agenda := rest, eos := v.getLsbD 0 }) ∨
    (∃ sym, s.nextWrite (.count sym) v rest ∧ t = { { s with agenda := rest }.setCount sym v with modelValid := false }) ∨
    t = { s with agenda := rest } := by
  rcases busWrite_cases hw with ⟨hr, hc⟩ | ⟨hr, rfl⟩ | ⟨hr, rfl⟩ | ⟨hr, rfl⟩ | ⟨sym, hr, rfl⟩ | ⟨_, _, _, _, _, rfl⟩
  · rcases commandPort_cases hc with ⟨_, rfl⟩ | ⟨_, _, rfl⟩ | ⟨hb, i, hd, he⟩
    · exact .inl ⟨_, ⟨off, hr, ha⟩, by simp, rfl⟩
    · exact .inl ⟨_, ⟨off, hr, ha⟩, by simp, rfl⟩
    · obtain rfl := decode_ok_word hd
      rcases exec_cases he with ⟨e, hfe, rfl⟩ | ⟨hf, rfl⟩
      · refine .inl ⟨e, ⟨off, hr, ha⟩, ?_, rfl⟩
        rcases firstError_some hfe with rfl | rfl | rfl | rfl <;> simp
      · exact .inr (.inl ⟨i, ⟨hb, rest, off, hr, ha⟩, ⟨off, hr, ha⟩, hf, rfl⟩)
  · exact .inr (.inr (.inl ⟨⟨off, hr, ha⟩, rfl⟩))
  · exact .inr (.inr (.inr (.inl ⟨⟨off, hr, ha⟩, rfl⟩)))
  · exact .inr (.inr (.inr (.inr (.inl ⟨⟨off, hr, ha⟩, rfl⟩))))
  · exact .inr (.inr (.inr (.inr (.inr (.inl ⟨sym, ⟨off, hr, ha⟩, rfl⟩)))))
  · exact .inr (.inr (.inr (.inr (.inr (.inr rfl)))))

/-- With an empty agenda, a run is turns of the engine. -/
theorem run_turn (n : Nat) (s : State) (ha : s.agenda = []) :
    Host.Core.run core (n + 1) s = Host.Core.run core n s.engineTurn := by
  have h : core.step s = .next s.engineTurn := by
    show step s = _
    unfold step
    rw [ha]
    rfl
  refine (Host.Core.run.eq_2 core s n).trans ?_
  split
  · next h' => rw [h] at h'; cases h'; rfl
  · next h' => rw [h] at h'; cases h'
  · next h' => rw [h] at h'; cases h'

end Sys2Proof.Machine
end

