-- ==== Sys2Proof/Laws/Streams.lean ====
section
/-! SUPPORT. Laws/Streams.lean: the bits of bytes, and a bit shifted into the packer's byte. -/

namespace Sys2Proof.Machine

open Sys2Proof

@[simp] theorem lowBits_length (b : Byte) (n : Nat) : (lowBits b n).length = n := by
  induction n with
  | zero => rfl
  | succ n ih => simp [lowBits, ih]

@[simp] theorem bitsOf_nil : bitsOf [] = [] := rfl

@[simp] theorem bitsOf_cons (b : Byte) (bytes : List Byte) : bitsOf (b :: bytes) = lowBits b 8 ++ bitsOf bytes := by simp [bitsOf]

theorem bitsOf_append (a b : List Byte) : bitsOf (a ++ b) = bitsOf a ++ bitsOf b := by simp [bitsOf]

/-- A bit shifted in at the low end comes last (R252). -/
theorem lowBits_shiftIn (a : Byte) (b : Bool) {n : Nat} (h : n < 8) :
    lowBits (a <<< 1 ||| (BitVec.ofBool b).setWidth 8) (n + 1) = lowBits a n ++ [b] := by
  induction n with
  | zero => simp only [lowBits, shiftIn_getLsbD a b 0 (by omega), if_true, List.nil_append]
  | succ n ih =>
    have := ih (by omega)
    rw [lowBits, this, shiftIn_getLsbD a b (n + 1) h, if_neg (by omega)]
    rfl

/-- No bit is left to read exactly when the unpacker and IN are both empty (R254). -/
theorem unreadBits_nil {s : State} : s.unreadBits = [] ↔ s.inb = 0 ∧ s.inQ = [] := by
  constructor
  · intro h
    have hl := congrArg List.length h
    simp only [State.unreadBits, List.length_append, lowBits_length, List.length_nil, Nat.add_eq_zero_iff] at hl
    refine ⟨Fin.ext hl.1, ?_⟩
    cases hq : s.inQ with
    | nil => rfl
    | cons b bs =>
      have hz := hl.2
      rw [hq, bitsOf_cons, List.length_append, lowBits_length] at hz
      omega
  · rintro ⟨h1, h2⟩
    simp [State.unreadBits, h1, h2, lowBits]

/-- An enabled PutStep is the engine's turn (R205). -/
theorem engineTurn_put {s : State} {b : Bool} {rest : List Bool} (ho : s.obl = b :: rest)
    (h : ¬ (s.onb = 7 ∧ s.outQ.length = s.params.outDepth)) : s.engineTurn = s.putStep := by
  have hen : s.putEnabled = true := by
    simp only [State.putEnabled, ho, List.isEmpty_cons, Bool.not_false, Bool.true_and, Bool.not_eq_true', Bool.and_eq_false_imp, beq_iff_eq]
    intro h7
    simpa using fun he => h ⟨h7, he⟩
  unfold State.engineTurn
  rw [if_pos hen]

/-- Without an output backlog the turn is a GetStep, if one is enabled (R205). -/
theorem engineTurn_get {s : State} (ho : s.obl = []) : s.engineTurn = if s.getEnabled then s.getStep else s := by
  unfold State.engineTurn
  rw [if_neg (by simp [State.putEnabled, ho])]

end Sys2Proof.Machine
end

