-- ==== Sys2Proof/Machine/Schedule.lean ====
section
/-! DEFINITION. Machine/Schedule.lean: runs without end. A schedule says which event comes at each point, for ever, so a host that polls on has one;
fairness (40_command_model.md R209) is a property of a schedule, and the only liveness assumption. A host program here may branch and loop on what
it read (30_encoding.md R160). None of this is state: the host and the order of steps are inputs (R201). -/

namespace Sys2Proof.Machine

open Sys2Proof

/-- Which event comes at each point of a run (R200, P5): any sequence at all. Its events take the place of those of the agenda (log 1). -/
abbrev Schedule := Nat → Event

/-- The run of a schedule from `s`: the state after `n` events. No event is refused (R500; log 15), so the last two arms are never taken. -/
def runOf (events : Schedule) (s : State) : Nat → State
  | 0 => s
  | n + 1 =>
    match perform (events n) (runOf events s n) with
    | .next t => t
    | .fault _ => runOf events s n
    | .refused _ => runOf events s n

/-- Weak fairness (R209): if an engine step stays enabled, one is eventually taken. -/
def IsFair (events : Schedule) (s : State) : Prop :=
  ∀ n, (∀ m, n ≤ m → (runOf events s m).engineEnabled = true) → ∃ m, n ≤ m ∧ events m = .engine

/-- A host program (R201): from the accesses it has made and what its reads returned, its next access, or none when it has taken its last step. -/
abbrev HostProgram := List BusAccess → List Reply → Option BusAccess

/-- The host's access, if the event is one. -/
def Event.access : Event → Option BusAccess
  | .host a => some a
  | .engine => none
  | .reset => none

/-- The accesses the host has made before point `n`, in order. -/
def accessesBefore (events : Schedule) (n : Nat) : List BusAccess := (List.range n).filterMap fun k => (events k).access

/-- What the host's reads have returned before point `n`, since the run began (R211). -/
def repliesBefore (events : Schedule) (s : State) (n : Nat) : List Reply := (runOf events s n).trace.drop s.trace.length

/-- What the host program does next at point `n`. -/
def HostProgram.nextAt (host : HostProgram) (events : Schedule) (s : State) (n : Nat) : Option BusAccess :=
  host (accessesBefore events n) (repliesBefore events s n)

/-- Every host step of the schedule is the program's. When it comes, and whether it ever does, stays open: no fairness is asked of the host (R209). -/
def HostProgram.Drives (host : HostProgram) (events : Schedule) (s : State) : Prop :=
  ∀ n a, events n = .host a → host.nextAt events s n = some a

/-- The run of the host's program has ended at point `n` (R211). -/
def HostProgram.endedAt (host : HostProgram) (events : Schedule) (s : State) (n : Nat) : Bool :=
  (host.nextAt events s n).isNone && !(runOf events s n).busy && !(runOf events s n).engineEnabled

/-- A program without loops: its lines in order (R158, R159). -/
def HostProgram.ofLines (lines : List HostLine) : HostProgram := fun done _ => (lines[done.length]?).map HostLine.assemble

/-- `WAIT_IDLE`, the loop: read STATUS until BUSY is 0 (R160). -/
def waitIdleLoop : HostProgram := fun _ replies =>
  match replies.getLast? with
  | none => some readStatus.assemble
  | some r => if r.value.getLsbD 0 then some readStatus.assemble else none

/-- The value of the last read of a register. -/
def lastRead (r : Register) (replies : List Reply) : Word := ((replies.filter fun p => registerAt p.off = r).getLast?.map Reply.value).getD 0

/-- `DRAIN`, the loop: read STATUS, pop until OUT is empty, and go round again unless that STATUS had BUSY 0 (R160). -/
def drainLoop : HostProgram := fun _ replies =>
  match replies.getLast? with
  | none => some readStatus.assemble
  | some r =>
    if registerAt r.off = .status || r.value.getLsbD 8 then some HostLine.pop.assemble
    else if (lastRead .status replies).getLsbD 0 then some readStatus.assemble
    else none

/-- How many of the accesses are reads. -/
def readCount (done : List BusAccess) : Nat :=
  done.countP fun
    | .read _ => true
    | .write _ _ => false

/-- One program after another: the second starts where the first has taken its last step. -/
def HostProgram.andThen (p q : HostProgram) : HostProgram := fun done replies =>
  match (List.range (done.length + 1)).find? fun k => (p (done.take k) (replies.take (readCount (done.take k)))).isNone with
  | none => p done replies
  | some k => q (done.drop k) (replies.drop (readCount (done.take k)))

/-- Programs one after another. -/
def HostProgram.chain (programs : List HostProgram) : HostProgram := programs.foldr HostProgram.andThen fun _ _ => none

/-- The host's program for an encode after reset (R553), with `DRAIN` after every command that may fill OUT (R160). -/
def encodeHost (data : List Byte) : HostProgram :=
  .chain ([.ofLines (buildModel data ++ [readStatus, .rd (.name .err), .command .encInit])]
    ++ data.flatMap (fun b => [.ofLines [.command (.encSym (.number b.toNat))], drainLoop])
    ++ [.ofLines [.command .encFinish], drainLoop])

end Sys2Proof.Machine
end

