-- ==== Sys2Proof/Laws/Schedule.lean ====
section
/-! SUPPORT. Laws/Schedule.lean: runs without end. Every schedule has a run; its prefixes are the agendas; and under fairness alone, whatever the host
does, a command completes unless its engine is held (40_command_model.md R207, R209). -/

namespace Sys2Proof.Machine

open Sys2Proof

/-! ### Every schedule has a run -/

/-- Nothing stops the block (R500). -/
theorem perform_next (e : Event) (s : State) : ∃ t, perform e s = .next t := by
  match e with
  | .host (.read off) => exact ⟨_, rfl⟩
  | .engine => exact ⟨_, rfl⟩
  | .reset => exact ⟨_, rfl⟩
  | .host (.write off v) =>
    simp only [perform, busWrite, commandPort, issueWord]
    (repeat' split) <;> first | exact ⟨_, rfl⟩ | exact ⟨_, exec_eq _ _⟩

/-- Each state of a run comes from the one before by the event of its point. -/
theorem runOf_succ (events : Schedule) (s : State) (n : Nat) :
    perform (events n) (runOf events s n) = .next (runOf events s (n + 1)) := by
  obtain ⟨t, h⟩ := perform_next (events n) (runOf events s n)
  rw [runOf, h]

/-! ### Prefixes of a schedule are agendas (log 1) -/

theorem engineTurn_withAgenda (s : State) (a : List Event) :
    ({ s with agenda := a } : State).engineTurn = { s.engineTurn with agenda := a } := by
  unfold State.engineTurn State.putEnabled State.getEnabled
  dsimp only
  split
  · unfold State.putStep
    dsimp only
    split
    · rfl
    · unfold State.putBit
      dsimp only
      split <;> rfl
  · split
    · unfold State.getStep
      dsimp only
      split
      · rfl
      · unfold State.getBit
        dsimp only
        (repeat' split) <;> rfl
    · rfl

theorem busRead_withAgenda (off : Offset) (s : State) (a : List Event) :
    busRead off { s with agenda := a } = { busRead off s with agenda := a } := by
  unfold busRead
  generalize registerAt off = r
  cases r <;> rfl

theorem effectOf_agenda (i : Instr) (s : State) (a : List Event) :
    effectOf i { s with agenda := a } = { effectOf i s with agenda := a } := by
  cases i with
  | ftCommit =>
    simp only [effectOf, ftCommitEffect]
    (repeat' split) <;> rfl
  | encSym sym =>
    have : ({ s with agenda := a } : State).narrow sym s.low s.high = s.narrow sym s.low s.high := rfl
    simp only [effectOf, encSymEffect, this]
    split <;> rfl
  | encFinish =>
    simp only [effectOf, encFinishEffect]
    split <;> rfl
  | _ => rfl

theorem exec_agenda {i : Instr} {s t : State} (h : exec i s = .next t) (a : List Event) :
    exec i { s with agenda := a } = .next { t with agenda := a } := by
  rcases exec_cases h with ⟨e, he, rfl⟩ | ⟨he, rfl⟩
  · rw [exec_eq, issue_of_some _ (e := e) (by rw [firstError_agenda]; exact he)]
    rfl
  · rw [exec_eq, issue_of_none _ (by rw [firstError_agenda]; exact he), effectOf_agenda]

/-- What an event does neither reads nor changes the agenda. -/
theorem perform_agenda {e : Event} {s t : State} (h : perform e s = .next t) (a : List Event) :
    perform e { s with agenda := a } = .next { t with agenda := a } := by
  match e, h with
  | .engine, h =>
    cases h
    exact congrArg _ (engineTurn_withAgenda s a)
  | .reset, h => cases h; rfl
  | .host (.read off), h =>
    cases h
    exact congrArg _ (busRead_withAgenda off s a)
  | .host (.write off v), h =>
    simp only [perform] at h ⊢
    unfold busWrite at h ⊢
    cases hr : registerAt off <;> simp only [hr] at h ⊢
    case cmd =>
      unfold commandPort issueWord at h ⊢
      rw [busy_agenda]
      split at h
      · next hb => cases h; rw [if_pos hb]; rfl
      · next hb =>
        rw [if_neg hb]
        split at h
        · cases h; rfl
        · exact exec_agenda h a
    case inData =>
      cases h
      unfold State.pushIn
      dsimp only
      split <;> rfl
    all_goals cases h; rfl

/-- A run of one more step. -/
theorem run_snoc (M : Host.Core) {n : Nat} {u v w : M.State} (h : Host.Core.run M n u = .next v) (hs : M.step v = .next w) :
    Host.Core.run M (n + 1) u = .next w := by
  induction n generalizing u with
  | zero =>
    cases h
    rw [Host.Core.run.eq_2, hs]
    rfl
  | succ n ih =>
    rw [Host.Core.run.eq_2] at h ⊢
    cases hx : M.step u with
    | next x =>
      rw [hx] at h
      exact ih h
    | fault r => rw [hx] at h; cases h
    | refused r => rw [hx] at h; cases h

/-- The first `n` events of a schedule, as an agenda, lead where the schedule's run is after them. -/
theorem run_prefix (events : Schedule) (s : State) (n : Nat) (rest : List Event) :
    Host.Core.run core n { s with agenda := (List.range n).map events ++ rest } = .next { runOf events s n with agenda := rest } := by
  induction n generalizing rest with
  | zero => rfl
  | succ n ih =>
    have hrun := ih (events n :: rest)
    rw [List.range_succ, List.map_append, List.append_assoc]
    exact run_snoc core hrun (perform_agenda (runOf_succ events s n) rest)

/-! ### Completion under fairness (R207, R209) -/

/-- How many engine steps the command in progress still asks for (R205). -/
def State.backlog (s : State) : Nat := s.obl.length + s.ibl.length

theorem busy_backlog (s : State) : s.busy = true ↔ 0 < s.backlog := by
  simp only [State.busy, State.backlog, Bool.or_eq_true, Bool.not_eq_true', List.isEmpty_eq_false_iff]
  rw [Nat.add_pos_iff_pos_or_pos, List.length_pos_iff, List.length_pos_iff]

theorem putStep_backlog {s : State} (h : s.putEnabled = true) : s.putStep.backlog + 1 = s.backlog := by
  cases ho : s.obl with
  | nil => simp [State.putEnabled, ho] at h
  | cons b rest =>
    by_cases h7 : s.onb = 7
    · rw [putStep_full ho h7]; simp [State.backlog, ho]; omega
    · rw [putStep_room ho h7]; simp [State.backlog, ho]; omega

theorem getStep_backlog {s : State} (h : s.getEnabled = true) : s.getStep.backlog + 1 = s.backlog := by
  cases hi : s.ibl with
  | nil => simp [State.getEnabled, hi] at h
  | cons c rest =>
    by_cases h0 : s.inb = 0
    · cases hq : s.inQ with
      | nil => rw [getStep_empty hi h0 hq]; simp [State.backlog, hi]; omega
      | cons b bs => rw [getStep_refill hi h0 hq]; simp [State.backlog, hi]; omega
    · rw [getStep_cached hi h0]; simp [State.backlog, hi]; omega

/-- An enabled turn of the engine does one step of the backlog; any other turn does none. -/
theorem engineTurn_backlog (s : State) : s.engineTurn.backlog + (if s.engineEnabled then 1 else 0) = s.backlog := by
  unfold State.engineTurn State.engineEnabled
  by_cases hp : s.putEnabled = true
  · simpa [hp] using putStep_backlog hp
  · by_cases hg : s.getEnabled = true
    · simpa [hp, hg] using getStep_backlog hg
    · simp [hp, hg]

/-- While BUSY no event adds to the backlog: every command is dropped (R202). -/
theorem perform_backlog {e : Event} {s t : State} (hb : s.busy = true) (h : perform e s = .next t) : t.backlog ≤ s.backlog := by
  match e, h with
  | .engine, h =>
    cases h
    have := engineTurn_backlog s
    omega
  | .reset, h => cases h; exact Nat.zero_le _
  | .host (.read off), h =>
    cases h
    exact Nat.le_of_eq (busRead_keeps State.backlog (fun _ _ _ => rfl) off s)
  | .host (.write off v), h =>
    rcases busWrite_cases h with ⟨_, hc⟩ | ⟨_, rfl⟩ | ⟨_, rfl⟩ | ⟨_, rfl⟩ | ⟨sym, _, rfl⟩ | ⟨_, _, _, _, _, rfl⟩
    · rcases commandPort_cases hc with ⟨_, rfl⟩ | ⟨hn, _⟩ | ⟨hn, _⟩
      · exact Nat.le_refl _
      · rw [hb] at hn; cases hn
      · rw [hb] at hn; cases hn
    · exact Nat.le_refl _
    · by_cases hq : s.inQ.length < s.params.inDepth
      · rw [pushIn_room _ hq]; exact Nat.le_refl _
      · rw [pushIn_full _ (by omega)]; exact Nat.le_refl _
    · exact Nat.le_refl _
    · exact Nat.le_refl _
    · exact Nat.le_refl _

/-- R207, R209: in a fair run, whatever the host does (it may poll for ever, or do nothing), the block comes to rest, unless it comes to a hold. -/
theorem fair_run_completes {events : Schedule} {s : State} (hf : IsFair events s) (n : Nat)
    (hold : ∀ m, n ≤ m → (runOf events s m).held = false) : ∃ m, n ≤ m ∧ (runOf events s m).busy = false := by
  by_contra hno
  have busy : ∀ m, n ≤ m → (runOf events s m).busy = true := by
    intro m hm
    by_contra hb
    exact hno ⟨m, hm, by simpa using hb⟩
  have enabled : ∀ m, n ≤ m → (runOf events s m).engineEnabled = true := by
    intro m hm
    have := hold m hm
    simpa [State.held, busy m hm] using this
  have mono : ∀ m d, n ≤ m → (runOf events s (m + d)).backlog ≤ (runOf events s m).backlog := by
    intro m d hm
    induction d with
    | zero => exact Nat.le_refl _
    | succ d ih => exact Nat.le_trans (perform_backlog (busy (m + d) (by omega)) (runOf_succ events s (m + d))) ih
  have never : ∀ k m, n ≤ m → (runOf events s m).backlog ≠ k := by
    intro k
    induction k using Nat.strong_induction_on with
    | _ k ih =>
      intro m hm hk
      obtain ⟨j, hj, he⟩ := hf m fun i hi => enabled i (by omega)
      have before := mono m (j - m) hm
      rw [Nat.add_sub_cancel' hj] at before
      have turn := runOf_succ events s j
      rw [he] at turn
      have after := engineTurn_backlog (runOf events s j)
      rw [Host.Outcome.next.inj turn, enabled j (by omega)] at after
      simp only [if_true] at after
      exact ih _ (by omega) (j + 1) (by omega) rfl
  exact never _ n (Nat.le_refl n) rfl

end Sys2Proof.Machine
end

