-- ==== Sys2Proof/Tests/Slice0.lean ====
section
/-! SUPPORT. Tests/Slice0.lean: the author's tests. Expected values are those of 95_test_vectors.md (the vector is named in each docstring) or of a rule's
own example; then, for each statement that has hypotheses, a state that meets them. -/

namespace Sys2Proof.Tests

open Sys2Proof Sys2Proof.Machine Sys2Proof.Statements

set_option maxRecDepth 20000

/-! ### Helpers -/

/-- The outcome is a next state with the property. -/
def after (o : Host.Outcome State Fault Refusal) (p : State → Bool) : Bool :=
  match o with
  | .next t => p t
  | .fault _ => false
  | .refused _ => false

theorem exists_of_after {o : Host.Outcome State Fault Refusal} {p : State → Bool} (h : after o p = true) :
    ∃ t, o = .next t ∧ p t = true := by
  cases o with
  | next t => exact ⟨t, rfl, h⟩
  | fault r => cases h
  | refused r => cases h

/-- The counts of the AAAB scenario (L1-1). -/
def aaab : Vector Word 256 := ((Vector.replicate 256 (0 : Word)).set 0x41 3).set 0x42 1

/-- A table with its starts and total, valid or not. -/
def withModel (counts : Vector Word 256) (valid : Bool) : State :=
  { resetState 0 ⟨15, 3⟩ [] [] with
    count := counts, start := derivedStarts counts, total := BitVec.ofNat 40 (cumulative counts 256), modelValid := valid }

/-- OUT_DEPTH 16, IN_DEPTH 4, the AAAB model committed, no stream open. -/
def idle : State := withModel aaab true

/-- Before the fourth ENC_SYM of L1-1: the packer holds the bit 0. -/
def enc4 : State := { idle with low := 0x0000, high := 0xD7FF, mode := .enc, onb := 1 }

/-- Before the fourth DEC_SYM of L1-1. -/
def dec4 : State :=
  { idle with low := 0x0000, high := 0xD7FF, value := 0xB000, mode := .dec, icache := 0x58, eos := true, result := 0x41, resultValid := true }

/-- Held for input (P5). -/
def inHeld : State := { idle with mode := .dec, ibl := [.zero, .zero] }

/-- Held for output, with OUT_DEPTH 1 (P6). -/
def outHeld : State := { idle with params := ⟨0, 3⟩, mode := .enc, obl := [true, false], onb := 7, oacc := 0x2C, outQ := [0x00] }

/-- Two counts, of symbols 0 and 1. -/
def two (a b : Word) : Vector Word 256 := ((Vector.replicate 256 (0 : Word)).set 0 a).set 1 b

/-- The host's next step is a write. -/
def wr (s : State) (off : Offset) (v : Word) : State := { s with agenda := [.host (.write off v)] }

/-- The host's next step is a read. -/
def rd (s : State) (off : Offset) : State := { s with agenda := [.host (.read off)] }

/-- The host's next step issues a command. -/
def cmd (s : State) (i : Instr) : State := wr s 0x000 (encode i)

/-! ### WellFormed refuses what is ill formed (R152, R155, R158, R159) -/

theorem test_wf_reserved_field : rsvOk 0x21000100 = false ∧ wordWellFormed 0x21000100 = false := by decide
theorem test_wf_reserved_opcode : opcOk 0x02000000 = false ∧ wordWellFormed 0x02000000 = false := by decide
theorem test_wf_operand : symOk 0x10000001 = false ∧ wordWellFormed 0x10000001 = false := by decide
theorem test_wf_legal_words : wordWellFormed 0x110000FF = true ∧ wordWellFormed 0x31000000 = true := by decide
theorem test_wf_symbol : (SymLit.number 256).wellFormed = false ∧ (SymLit.char '\n').wellFormed = false := by decide
theorem test_wf_command_line : (CommandLine.ftInc (.number 256)).wellFormed = false ∧ (CommandLine.encSym (.number 256)).wellFormed = false := by
  decide
theorem test_wf_register : (RegRef.start 257).wellFormed = false ∧ (RegRef.raw 0x1000).wellFormed = false ∧
    (RegRef.name .reserved).wellFormed = false ∧ (RegRef.count (.number 256)).wellFormed = false := by decide
theorem test_wf_line : (HostLine.wr (.name .err) (2 ^ 32)).wellFormed = false ∧ (HostLine.push 256).wellFormed = false ∧
    (HostLine.rd (.start 257)).wellFormed = false ∧ (HostLine.command (.ftInc (.number 256))).wellFormed = false := by decide
theorem test_wf_every_command : Instr.wellFormed (.ftInc 0xFF) = true ∧ Instr.wellFormed (.encSym 0x00) = true := by decide

/-! ### Decoding: words written bit by bit from OPC, RSV and SYM (R151, R153) -/

theorem test_decode_nop : decode (0b00000000#8 ++ 0#16 ++ 0b00000000#8) = .ok .nop := by decide
theorem test_decode_abort : decode (0b00000001#8 ++ 0#16 ++ 0b00000000#8) = .ok .abort := by decide
theorem test_decode_ftClear : decode (0b00010000#8 ++ 0#16 ++ 0b00000000#8) = .ok .ftClear := by decide
theorem test_decode_ftInc : decode (0b00010001#8 ++ 0#16 ++ 0b01000001#8) = .ok (.ftInc 0x41) := by decide
theorem test_decode_ftCommit : decode (0b00010010#8 ++ 0#16 ++ 0b00000000#8) = .ok .ftCommit := by decide
theorem test_decode_encInit : decode (0b00100000#8 ++ 0#16 ++ 0b00000000#8) = .ok .encInit := by decide
theorem test_decode_encSym : decode (0b00100001#8 ++ 0#16 ++ 0b10000001#8) = .ok (.encSym 0x81) := by decide
theorem test_decode_encFinish : decode (0b00100010#8 ++ 0#16 ++ 0b00000000#8) = .ok .encFinish := by decide
theorem test_decode_decInit : decode (0b00110000#8 ++ 0#16 ++ 0b00000000#8) = .ok .decInit := by decide
theorem test_decode_decSym : decode (0b00110001#8 ++ 0#16 ++ 0b00000000#8) = .ok .decSym := by decide

/-- V30-7 to V30-13. -/
theorem test_decode_illegal : decode 0x10000001 = .error .operandNotZero ∧ decode 0x21000100 = .error .reservedField ∧
    decode 0x11800041 = .error .reservedField ∧ decode 0x02000000 = .error .reservedOpcode ∧ decode 0xFF000000 = .error .reservedOpcode ∧
    decode 0x32000000 = .error .reservedOpcode ∧ decode 0x22000080 = .error .operandNotZero := by decide

/-- Table words: bits above `nbits` are 0 (V30-3, V30-8, V30-10). -/
theorem test_decodeTableWord : decodeTableWord 32 0x11000041 = some (.ftInc 0x41) ∧ decodeTableWord 8 0x00 = some .nop ∧
    decodeTableWord 32 0x02000000 = none ∧ decodeTableWord 40 0x2100000041 = none := by decide

/-- A word placed after reset is the next step (R202): FT_CLEAR runs, an illegal word is recorded (V60-1). -/
theorem test_withFetchWord : after (step (State.reset.withFetchWord 32 0x10000000)) (fun t => t.countOf 0x41 == 0 && t.err == 0) = true ∧
    after (step (State.reset.withFetchWord 32 0x02000000)) (fun t => t.errCmd == 0x02000000 && t.err == 0x01) = true := by decide

/-- `ENC_SYM 'A'` and `WR COUNT['A'], 3` of the listings of P1 and P2. -/
theorem test_assemble : (HostLine.command (.encSym (.char 'A'))).assemble = .write 0x000 0x21000041 ∧
    (HostLine.wr (.count (.char 'A')) 3).assemble = .write 0x504 3 ∧ HostLine.setEos.assemble = .write 0x03C 1 ∧
    HostLine.pop.assemble = .read 0x030 ∧ (HostLine.push 0x58).assemble = .write 0x034 0x58 := by decide

/-! ### Control commands -/

/-- V40-1: NOP. -/
theorem test_nop : after (step (cmd idle .nop)) (fun t => t.statusWord == 0x00000008 && t.countOf 0x41 == 3 && t.errCmd == 0) = true := by
  decide

/-- V40-2: ABORT. -/
theorem test_abort_enc :
    after (exec .abort { enc4 with low := 0x0800, high := 0xDFFF, pending := 1, onb := 2, oacc := 0x01 }) (fun t =>
      t.mode == .none && t.low == 0 && t.high == 0xFFFF && t.pending == 0 && t.onb == 0 && t.oacc == 0 && t.statusWord == 0x00000008) =
      true := by decide

/-- V40-3, V40-4: ABORT empties the FIFOs and keeps the errors. -/
theorem test_abort_streams :
    after (exec .abort { idle with outQ := [0x58], inQ := [0x12, 0x34], eos := true, err := 0x04, errCmd := 0x21000041 }) (fun t =>
      t.fifoStatWord == 0 && !t.eos && t.outDataWord == 0 && t.err == 0x04 && t.errCmd == 0x21000041) = true := by decide

/-! ### Frequency table -/

/-- V42-1: FT_CLEAR leaves START and TOTAL. -/
theorem test_ftClear : after (exec .ftClear idle) (fun t =>
    t.countOf 0x41 == 0 && t.countOf 0xFF == 0 && !t.modelValid && t.startOf 0x42 == 3 && t.total == 4) = true := by decide

/-- V42-2 with another count kept. -/
theorem test_ftInc : after (exec (.ftInc 0x41) { idle with count := aaab.set 0x41 2 }) (fun t =>
    t.countOf 0x41 == 3 && t.countOf 0x42 == 1 && !t.modelValid) = true := by decide

/-- V42-3: saturation raises nothing. -/
theorem test_ftInc_saturates : after (exec (.ftInc 5) { idle with count := aaab.set 5 0xFFFFFFFF }) (fun t =>
    t.countOf 5 == 0xFFFFFFFF && t.err == 0) = true := by decide

/-- V42-9. -/
theorem test_ftCommit : after (exec .ftCommit { idle with total := 0, modelValid := false }) (fun t =>
    t.startOf 0x41 == 0 && t.startOf 0x42 == 3 && t.startOf 0x43 == 4 && t.total == 4 && t.modelValid) = true := by decide

/-- V42-6: the total is written and refused. -/
theorem test_ftCommit_range : after (exec .ftCommit { idle with count := two 0x4000 0 }) (fun t =>
    t.startOf 1 == 0x4000 && t.total == 0x4000 && !t.modelValid && t.err == 0x20 && t.errCmd == 0x12000000) = true := by decide

/-! ### Interval mapper and lookup -/

/-- V42-12, V42-13, V42-19, V42-20. -/
theorem test_narrow_lookup_aaab : idle.narrow 0x41 0x0000 0xFFFF = (0x0000, 0xBFFF) ∧ idle.narrow 0x42 0x0000 0xD7FF = (0xA200, 0xD7FF) ∧
    idle.lookup 0 = 0x41 ∧ idle.lookup 2 = 0x41 ∧ idle.lookup 3 = 0x42 := by decide

/-- V42-14 to V42-17. -/
theorem test_narrow_skewed : (withModel (two 1 0x3FFE) true).narrow 0 0x0000 0xFFFF = (0x0000, 0x0003) ∧
    (withModel (two 1 0x3FFE) true).narrow 1 0x0000 0xFFFF = (0x0004, 0xFFFF) ∧
    (withModel (two 1 0x3FFE) true).narrow 0 0x3FFF 0x8000 = (0x3FFF, 0x3FFF) ∧
    (withModel (two 1 0x3FFE) true).narrow 1 0x3FFF 0x8000 = (0x4000, 0x8000) := by decide

/-- V42-22: a symbol of count 0 is never found. -/
theorem test_lookup_skips_zero : (withModel ((two 1 0).set 2 1) true).lookup 1 = 2 := by decide

/-- V44-11: the top of the interval. -/
theorem test_freqVal_top : { idle with value := 0xFFFF }.freqVal = 3 := by decide

/-! ### Renormalization -/

/-- V43-1 to V43-6. -/
theorem test_renormEnc : renormEnc 0x0000 0x6BFF 0 = some ⟨0x0000, 0xD7FF, 0, [false]⟩ ∧
    renormEnc 0xA200 0xD7FF 0 = some ⟨0x0800, 0xDFFF, 1, [true]⟩ ∧ renormEnc 0x4000 0xBFFF 0 = some ⟨0x0000, 0xFFFF, 1, []⟩ ∧
    renormEnc 0x4000 0x7FFF 0 = some ⟨0x0000, 0xFFFF, 0, [false, true]⟩ ∧
    renormEnc 0x3000 0x4FFF 3 = some ⟨0x0000, 0xFFFF, 2, [false, true, true, true]⟩ ∧
    renormEnc 0x9000 0xAFFF 2 = some ⟨0x0000, 0xFFFF, 1, [true, false, false, false]⟩ := by decide

/-- V43-7 to V43-11: 16 iterations at most, pending kept at DONE. -/
theorem test_renormEnc_limits : renormEnc 0x3FFF 0x3FFF 0 = some ⟨0x0000, 0xFFFF, 0, [false, false] ++ List.replicate 14 true⟩ ∧
    renormEnc 0x0000 0x0003 0 = some ⟨0x0000, 0xFFFF, 0, List.replicate 14 false⟩ ∧
    renormEnc 0xFFFB 0xFFFF 0 = some ⟨0x6000, 0xFFFF, 0, List.replicate 13 true⟩ ∧
    renormEnc 0x0000 0xFFFF 5 = some ⟨0x0000, 0xFFFF, 5, []⟩ ∧ renormEnc 0x3333 0x51EA 0 = some ⟨0x4CCC, 0xC7AB, 1, [false]⟩ ∧
    renormEnc 0x4000 0xBFFF 0xFFFFFFFF = none := by decide

/-- The IBL column of L1-1 and of V44-7. -/
theorem test_renormDec : renormDec 0xA200 0xD7FF = ⟨0x0800, 0xDFFF, [.half, .quarter]⟩ ∧
    renormDec 0x3333 0x51EA = ⟨0x4CCC, 0xC7AB, [.zero, .quarter]⟩ := by decide

/-! ### Encoder commands -/

/-- V43-32: ENC_INIT in an open stream; OUT is kept. -/
theorem test_encInit : after (exec .encInit { enc4 with low := 0x0800, pending := 1, onb := 2, oacc := 1, outQ := [0x58] }) (fun t =>
    t.low == 0 && t.high == 0xFFFF && t.pending == 0 && t.onb == 0 && t.oacc == 0 && t.outQ == [0x58] && t.mode == .enc) = true := by decide

/-- V60-4. -/
theorem test_encInit_noModel : after (exec .encInit { idle with modelValid := false }) (fun t =>
    t.err == 0x08 && t.errCmd == 0x20000000 && t.mode == .none) = true := by decide

/-- The fourth step of the AAAB encode (L1-1). -/
theorem test_encSym : after (step (cmd enc4 (.encSym 0x42))) (fun t =>
    t.low == 0x0800 && t.high == 0xDFFF && t.pending == 1 && t.obl == [true] && t.busy && t.err == 0) = true := by decide

/-- V60-5. -/
theorem test_encSym_zero : after (step (cmd enc4 (.encSym 0x43))) (fun t =>
    t.err == 0x10 && t.errCmd == 0x21000043 && t.high == 0xD7FF && t.obl == [] && t.mode == .enc) = true := by decide

/-- V43-12, V43-13, V43-14: the terminating bits and the padding. -/
theorem test_encFinish :
    after (exec .encFinish { enc4 with low := 0x0800, pending := 1, onb := 2 }) (fun t =>
      t.obl == [false, true, true, false, false, false] && t.mode == .none && t.pending == 0 && t.low == 0x0800) = true ∧
    after (exec .encFinish { enc4 with low := 0x4CCC, pending := 1 }) (fun t =>
      t.obl == [true, false, false, false, false, false, false]) = true ∧
    after (exec .encFinish { enc4 with onb := 6 }) (fun t => t.obl == [false, true]) = true := by decide

/-- V60-10. -/
theorem test_encFinish_overflow : after (exec .encFinish { enc4 with pending := 0xFFFFFFFF }) (fun t =>
    t.err == 0x40 && t.errCmd == 0x22000000 && t.mode == .none && t.pending == 0xFFFFFFFF && t.high == 0xD7FF && t.obl == []) = true := by
  decide

/-! ### Decoder commands -/

/-- R406: the priming backlog; IN is kept. -/
theorem test_decInit : after (exec .decInit { idle with inQ := [0x58], value := 7, icache := 9, inb := 3 }) (fun t =>
    t.ibl == List.replicate 16 .zero && t.value == 0 && t.inb == 0 && t.icache == 0 && t.inQ == [0x58] && t.mode == .dec && !t.resultValid) =
    true := by decide

/-- V60-3: held in DEC_INIT, a DEC_SYM is dropped. -/
theorem test_busy_drops : after (step (cmd inHeld .decSym)) (fun t =>
    t.err == 0x02 && t.errCmd == 0x31000000 && t.ibl == [.zero, .zero] && !t.resultValid) = true := by decide

/-- The fourth step of the AAAB decode (L1-1). -/
theorem test_decSym : after (step (cmd dec4 .decSym)) (fun t =>
    t.result == 0x42 && t.low == 0x0800 && t.high == 0xDFFF && t.ibl == [.half, .quarter] && t.value == 0xB000) = true := by decide

/-- V44-12: a DEC_SYM past the stream. -/
theorem test_decSym_extra : after (exec .decSym { dec4 with low := 0x0800, high := 0xDFFF, value := 0x4000 }) (fun t =>
    t.result == 0x41 && t.low == 0x0800 && t.high == 0xA9FF && t.ibl == [] && t.err == 0) = true := by decide

/-! ### Bit stream -/

/-- V41-1, V41-2, V41-3. -/
theorem test_putStep : ({ idle with obl := [true] }.engineTurn.onb = 1 ∧ { idle with obl := [true] }.engineTurn.oacc = 0x01) ∧
    { enc4 with obl := [true], onb := 7, oacc := 0x2C }.engineTurn.outQ = [0x59] ∧
    { enc4 with obl := [false], onb := 7, oacc := 0x2C }.engineTurn.outQ = [0x58] := by decide

/-- V41-5, V41-6, V41-7, V41-9: the first bit of 0xA9, the next one of its low five, past the end, a byte before the end. -/
theorem test_getBit : { dec4 with inQ := [0xA9] }.getBit.1 = true ∧ { dec4 with inQ := [0xA9] }.getBit.2.inb = 7 ∧
    { dec4 with icache := 0xA9, inb := 5 }.getBit.1 = false ∧ { dec4 with icache := 0xA9, inb := 4 }.getBit.1 = true ∧
    dec4.getBit.1 = false ∧ dec4.getBit.2.icache = 0x58 ∧ dec4.getBit.2.inb = 0 ∧ { dec4 with inQ := [0x00] }.getBit.2.inb = 7 := by decide

/-- The two GetSteps after the fourth DEC_SYM of L1-1: 6000, then 4000. -/
theorem test_getStep : { dec4 with ibl := [.half, .quarter] }.engineTurn.value = 0x6000 ∧
    { dec4 with value := 0x6000, ibl := [.quarter] }.engineTurn.value = 0x4000 := by decide

/-- V41-8 and P6's hold: the engine's turn changes nothing. -/
theorem test_holds : inHeld.inWait = true ∧ inHeld.engineTurn.ibl = inHeld.ibl ∧ inHeld.engineTurn.value = inHeld.value ∧
    outHeld.outWait = true ∧ outHeld.engineTurn.obl = outHeld.obl ∧ outHeld.engineTurn.outQ = outHeld.outQ := by decide

/-- V41-10, V41-11, V41-12: reads of OUT_DATA. -/
theorem test_outData : after (step (rd { idle with outQ := [0x58, 0x40] } 0x030)) (fun t =>
      t.outQ == [0x40] && readValues t.trace == [0x00000158]) = true ∧
    after (step (rd { idle with outQ := [0x00] } 0x030)) (fun t => t.outQ == [] && readValues t.trace == [0x00000100]) = true ∧
    after (step (rd idle 0x030)) (fun t => readValues t.trace == [0x00000000] && poppedBytes t.trace == []) = true := by decide

/-- V41-13, V41-14: writes of IN_DATA. -/
theorem test_inData : after (step (wr idle 0x034 0x000001FF)) (fun t => t.inQ == [0xFF] && t.err == 0) = true ∧
    after (step (wr { idle with inQ := [1, 2, 3, 4], errCmd := 5 } 0x034 0x12)) (fun t =>
      t.inQ == [1, 2, 3, 4] && t.err == 0x80 && t.errCmd == 5) = true := by decide

/-! ### Errors and registers -/

/-- V60-12, V60-13: write-one-to-clear. -/
theorem test_w1c : after (step (wr { idle with err := 0x2C } 0x008 0x00000024)) (fun t => t.err == 0x08) = true ∧
    after (step (wr { idle with err := 0x2C } 0x008 0xFFFFFF00)) (fun t => t.err == 0x2C) = true := by decide

/-- V60-14 to V60-18: priority, and a second error. -/
theorem test_priority : after (step (wr inHeld 0x000 0x02000000)) (fun t => t.err == 0x02) = true ∧
    after (step (wr { idle with modelValid := false } 0x000 0x21000041)) (fun t => t.err == 0x04) = true ∧
    after (step (wr { enc4 with modelValid := false } 0x000 0x21000043)) (fun t => t.err == 0x08) = true ∧
    after (step (wr { idle with err := 0x04, errCmd := 0x21000041 } 0x000 0xFF000000)) (fun t =>
      t.err == 0x05 && t.errCmd == 0xFF000000) = true ∧
    after (step (wr { idle with err := 0x04, errCmd := 0x21000041 } 0x000 0x21000042)) (fun t =>
      t.err == 0x04 && t.errCmd == 0x21000042) = true := by decide

/-- V42-11: any write of a COUNT entry invalidates the model. -/
theorem test_countWrite : after (step (wr idle 0x504 3)) (fun t => !t.modelValid && t.countOf 0x41 == 3) = true := by decide

/-- V70-1 to V70-6, V70-9: reads right after reset. -/
theorem test_reset_reads : State.reset.regValue .status = 0x00000000 ∧ State.reset.regValue .err = 0 ∧ State.reset.regValue .errCmd = 0 ∧
    State.reset.regValue .low = 0 ∧ State.reset.regValue .high = 0x0000FFFF ∧ State.reset.regValue .value = 0 ∧
    State.reset.regValue .pending = 0 ∧ State.reset.regValue .bitstate = 0 ∧ State.reset.regValue .fifoStat = 0 ∧
    State.reset.regValue .outData = 0 ∧ State.reset.regValue .cfg1 = 0x00103FFF := by decide

/-- V70-7, and the STATUS and BITSTATE values of P5 and P6 while held. -/
theorem test_status_words : idle.regValue .cfg0 = 0x00040010 ∧ inHeld.regValue .status = 0x0000002D ∧
    { inHeld with icache := 0x58 }.regValue .bitstate = 0x00580000 ∧
    { outHeld with mode := .none }.regValue .status = 0x00000049 ∧ { outHeld with oacc := 0 }.regValue .bitstate = 0x00000700 := by decide

/-- The boundaries of the register map (R49). -/
theorem test_map : registerAt 0x044 = .cfg1 ∧ registerAt 0x048 = .reserved ∧ registerAt 0x3FC = .reserved ∧ registerAt 0x400 = .count 0 ∧
    registerAt 0x7FC = .count 0xFF ∧ registerAt 0x800 = .start 0 ∧ registerAt 0xC00 = .start 256 ∧ registerAt 0xC04 = .reserved ∧
    registerAt 0xFFC = .reserved ∧ registerAt 0x007 = .status := by decide

/-- L1-1's container: its first bytes, and its length with the body 0x58. -/
theorem test_container : (Container.ofEncode [0x41, 0x41, 0x41, 0x42] [0x58]).toBytes.take 9 = [4, 0, 0, 0, 0, 0, 0, 0, 0] ∧
    (Container.ofEncode [0x41, 0x41, 0x41, 0x42] [0x58]).toBytes.length = 1033 ∧
    ((Container.ofEncode [0x41, 0x41, 0x41, 0x42] [0x58]).toBytes.drop 0x10C).take 8 = [3, 0, 0, 0, 1, 0, 0, 0] := by decide

/-! ### Runs without end (R160, R209) -/

/-- The end of the AAAB encode as the engine stands before its last bit: a whole byte ahead, and room for it (L1-1). -/
def lastBit : State := { enc4 with mode := .none, onb := 7, oacc := 0x2C, obl := [false] }

/-- A host that reads STATUS for ever, turn by turn with the engine. -/
def polling : Schedule := fun n => if n % 2 = 0 then .host (.read 0x004) else .engine

/-- `WAIT_IDLE` reads once with BUSY, once without, and is done (R160). -/
theorem test_waitIdleLoop : waitIdleLoop.nextAt polling lastBit 0 = some (.read 0x004) ∧ (runOf polling lastBit 1).busy = true ∧
    (runOf polling lastBit 2).busy = false ∧ waitIdleLoop.nextAt polling lastBit 2 = some (.read 0x004) ∧
    waitIdleLoop.nextAt polling lastBit 3 = none ∧ waitIdleLoop.endedAt polling lastBit 3 = true := by decide

/-- `DRAIN` pops until OVALID is 0, and goes round while its STATUS had BUSY (R160). -/
theorem test_drainLoop : drainLoop [] [] = some (.read 0x004) ∧ drainLoop [] [⟨0x004, 0x1⟩] = some (.read 0x030) ∧
    drainLoop [] [⟨0x004, 0x1⟩, ⟨0x030, 0x158⟩] = some (.read 0x030) ∧
    drainLoop [] [⟨0x004, 0x1⟩, ⟨0x030, 0x000⟩] = some (.read 0x004) ∧ drainLoop [] [⟨0x004, 0x0⟩, ⟨0x030, 0x000⟩] = none := by decide

/-- The encode program begins with FT_CLEAR, and codes after ENC_INIT (R553). -/
theorem test_encodeHost : encodeHost [0x41] [] [] = some (.write 0x000 0x10000000) ∧
    encodeHost [0x41] [.write 0x000 0x10000000, .write 0x000 0x11000041, .write 0x000 0x12000000, .read 0x004, .read 0x008, .write 0x000 0x20000000]
      [⟨0x004, 0x8⟩, ⟨0x008, 0x0⟩] = some (.write 0x000 0x21000041) := by decide

/-- Polling for ever is fair, and from `lastBit` never held: what `fair_run_completes` asks. -/
theorem polling_fair (s : State) : IsFair polling s := fun n _ => ⟨2 * n + 1, by omega, by simp [polling]⟩

theorem polling_never_held (m : Nat) : (runOf polling lastBit m).held = false := by
  have rest : ∀ d, (runOf polling lastBit (d + 2)).backlog = 0 := by
    intro d
    induction d with
    | zero => decide
    | succ d ih =>
      have next := runOf_succ polling lastBit (d + 2)
      have event : polling (d + 2) = .host (.read 0x004) ∨ polling (d + 2) = .engine := by
        simp only [polling]
        split <;> simp
      rw [show d + 1 + 2 = d + 2 + 1 from rfl]
      rcases event with he | he <;> rw [he] at next <;> rw [← Host.Outcome.next.inj next]
      · exact (busRead_keeps State.backlog (fun _ _ _ => rfl) _ _).trans ih
      · have := engineTurn_backlog (runOf polling lastBit (d + 2))
        omega
  match m with
  | 0 => decide
  | 1 => decide
  | d + 2 =>
    have hb : (runOf polling lastBit (d + 2)).busy = false := by
      rw [← Bool.not_eq_true, busy_backlog, rest d]
      omega
    simp [State.held, hb]

theorem test_fair_run_completes : ∃ m, 0 ≤ m ∧ (runOf polling lastBit m).busy = false :=
  fair_run_completes (polling_fair lastBit) 0 fun m _ => polling_never_held m

/-! ### Each statement's hypotheses are met

One theorem for each statement that has hypotheses; where a statement has several clauses, one part for each, at the edges of their ranges. -/

theorem withModel_ok {counts : Vector Word 256} (valid : Bool) (h1 : 1 ≤ cumulative counts 256) (h2 : cumulative counts 256 ≤ Config.maxTotal) :
    (withModel counts valid).ModelOk := by
  have ht : (withModel counts valid).total.toNat = cumulative counts 256 := by
    simp only [withModel, BitVec.toNat_ofNat]
    simp only [Config.maxTotal] at h2
    omega
  refine ⟨?_, ?_, ?_, ?_, ?_⟩
  · simp only [withModel, derivedStarts_toNat, cumulative_zero]
  · intro n h
    simp only [withModel]
    rw [derivedStarts_toNat _ (by omega), derivedStarts_toNat _ (by omega), cumulative_succ _ h]
  · apply BitVec.eq_of_toNat_eq
    rw [ht]
    simp only [withModel, derivedStarts_toNat]
  · omega
  · omega

theorem idle_modelOk : idle.ModelOk := withModel_ok true (by decide) (by decide)

/-- A state with idle's table has a good model. -/
theorem modelOk_of_idle {s : State} (h1 : s.start = idle.start) (h2 : s.count = idle.count) (h3 : s.total = idle.total) : s.ModelOk := by
  obtain ⟨a, b, c, d, e⟩ := idle_modelOk
  exact ⟨by simp only [h1]; exact a, by simp only [h1, h2]; exact b, by simp only [h1, h3]; exact c, by rw [h3]; exact d, by rw [h3]; exact e⟩

theorem settled_full : Settled 0x0000 0xFFFF := by unfold Settled; decide

theorem idle_inv (a : List Event) : State.Inv { idle with agenda := a } where
  interval := settled_full
  model := fun _ => modelOk_of_idle rfl rfl rfl
  oneBacklog := .inl rfl
  packer := by show (0 : Byte).toNat < 2 ^ (0 : Fin 8).val; decide
  outRoom := Nat.zero_le _
  inRoom := Nat.zero_le _
  decoding := fun h => absurd rfl h
  value := fun h => by cases h

theorem dec4_inv : dec4.Inv where
  interval := by unfold Settled; decide
  model := fun _ => modelOk_of_idle rfl rfl rfl
  oneBacklog := .inl rfl
  packer := by show (0 : Byte).toNat < 2 ^ (0 : Fin 8).val; decide
  outRoom := Nat.zero_le _
  inRoom := Nat.zero_le _
  decoding := fun h => absurd rfl h
  value := fun _ => show (0x0000 : Half) ≤ 0xB000 ∧ (0xB000 : Half) ≤ 0xD7FF by decide

theorem inHeld_inv (a : List Event) : State.Inv { inHeld with agenda := a } where
  interval := settled_full
  model := fun _ => modelOk_of_idle rfl rfl rfl
  oneBacklog := .inl rfl
  packer := by show (0 : Byte).toNat < 2 ^ (0 : Fin 8).val; decide
  outRoom := Nat.zero_le _
  inRoom := Nat.zero_le _
  decoding := fun _ => rfl
  value := fun _ => by
    show ValueFits 0x0000 0xFFFF [.zero, .zero] 0x0000
    simp only [ValueFits]
    decide

theorem outHeld_inv (a : List Event) : State.Inv { outHeld with agenda := a } where
  interval := settled_full
  model := fun _ => modelOk_of_idle rfl rfl rfl
  oneBacklog := .inr rfl
  packer := by show (0x2C : Byte).toNat < 2 ^ (7 : Fin 8).val; decide
  outRoom := Nat.le_refl 1
  inRoom := Nat.zero_le _
  decoding := fun h => absurd rfl h
  value := fun h => by cases h

theorem nextCommand_wr (s : State) (w : Word) : (wr s 0x000 w).nextCommand w [] := ⟨0x000, registerAt_cmd, rfl⟩

theorem nextRuns_cmd {s : State} (h : s.busy = false) (i : Instr) : (cmd s i).nextRuns i := ⟨h, [], nextCommand_wr s _⟩

theorem witness_OneOpcodeRowPerWord : decode 0x110000FF = .ok (.ftInc 0xFF) ∧ Instr.row (.ftInc 0xFF) ∈ opcodeMap ∧
    (0x110000FF : Word) &&& (Instr.row (.ftInc 0xFF)).mask = (Instr.row (.ftInc 0xFF)).matchWord := by decide

theorem witness_IllegalWordsAreRefused : registerAt 0x003 = .cmd ∧ (∃ why, decode 0x32000000 = .error why) ∧ idle.busy = false ∧
    inHeld.busy = true := ⟨by decide, ⟨.reservedOpcode, by decide⟩, by decide, by decide⟩

theorem witness_StepRunsTheDecodedCommand : (cmd enc4 (.encSym 0x42)).nextCommand 0x21000042 [] ∧ decode 0x21000042 = .ok (.encSym 0x42) ∧
    idle.agenda = [] ∧ { idle with agenda := [.engine] }.agenda = [.engine] ∧ (rd idle 0x004).agenda = [.host (.read 0x004)] ∧
    (wr idle 0x008 1).agenda = [.host (.write 0x008 1)] ∧ { idle with agenda := [.reset] }.agenda = [.reset] :=
  ⟨nextCommand_wr enc4 0x21000042, by decide, rfl, rfl, rfl, rfl, rfl⟩

theorem witness_WordIsDroppedWhileBusy : registerAt 0x000 = .cmd ∧ outHeld.busy = true := by decide

/-- One state for each of the clauses: BUSY, a wrong mode, no model, a zero count, none of them; and the two errors of step 6, and neither. -/
theorem witness_CommandErrorsInOrder : inHeld.busy = true ∧ (idle.busy = false ∧ WrongMode (.encSym 0x41) idle) ∧
    ({ idle with modelValid := false }.busy = false ∧ ¬ WrongMode .decInit { idle with modelValid := false } ∧
      NoModel .decInit { idle with modelValid := false }) ∧
    (enc4.busy = false ∧ ¬ WrongMode (.encSym 0x43) enc4 ∧ ¬ NoModel (.encSym 0x43) enc4 ∧ ZeroFreq (.encSym 0x43) enc4) ∧
    (enc4.busy = false ∧ ¬ WrongMode (.encSym 0x42) enc4 ∧ ¬ NoModel (.encSym 0x42) enc4 ∧ ¬ ZeroFreq (.encSym 0x42) enc4) ∧
    PendingOverflows .encFinish { enc4 with pending := 0xFFFFFFFF } ∧ PendingOverflows (.encSym 0x42) { enc4 with pending := 0xFFFFFFFF, low := 0x4000, high := 0xBFFF, count := aaab.set 0x42 4, start := derivedStarts (Vector.replicate 256 0) } ∧
    0x3FFF < cumulative (two 0x4000 0) 256 := by
  refine ⟨by decide, ⟨by decide, .inl ⟨.inl ⟨_, rfl⟩, by decide⟩⟩, ⟨by decide, ?_, ?_⟩, ⟨by decide, ?_, ?_, ?_⟩, ⟨by decide, ?_, ?_, ?_⟩, ?_, ?_, ?_⟩
  · simp [WrongMode]
  · exact ⟨.inr (.inr (.inl rfl)), rfl⟩
  · simp [WrongMode, enc4]
  · simp [NoModel, enc4, idle, withModel]
  · exact ⟨0x43, rfl, by decide⟩
  · simp [WrongMode, enc4]
  · simp [NoModel, enc4, idle, withModel]
  · rintro ⟨sym, h, hz⟩
    cases h
    revert hz
    decide
  · exact .inl ⟨rfl, rfl⟩
  · exact .inr ⟨0x42, rfl, by decide⟩
  · decide

theorem witness_ErrorBitsGateNothing : ∃ t u, step (cmd enc4 (.encSym 0x42)) = .next t ∧
    step { cmd enc4 (.encSym 0x42) with err := 0xFF, errCmd := 7 } = .next u := ⟨_, _, rfl, rfl⟩

/-- NOP, ABORT, FT_CLEAR and FT_INC: the block is idle, or BUSY; a word with the OPC of a command that is not its word (V30-7), or with RSV not 0. -/
theorem witness_NopChangesNothing : idle.busy = false ∧ inHeld.busy = true ∧ registerAt 0x000 = .cmd ∧
    opcField 0x00000001 = opcField 0x00000000 ∧ (0x00000001 : Word) ≠ 0x00000000 := by decide
theorem witness_AbortEmptiesTheStreams : enc4.busy = false ∧ outHeld.busy = true ∧ registerAt 0x003 = .cmd ∧
    opcField 0x01000100 = opcField 0x01000000 ∧ (0x01000100 : Word) ≠ 0x01000000 := by decide
theorem witness_FtClearZeroesEveryCount : enc4.busy = false ∧ outHeld.busy = true ∧ registerAt 0x000 = .cmd ∧
    opcField 0x10000001 = opcField 0x10000000 ∧ (0x10000001 : Word) ≠ 0x10000000 := by decide
theorem witness_FtIncCountsOneSymbol : enc4.busy = false ∧ outHeld.busy = true ∧ registerAt 0x000 = .cmd ∧ opcField 0x11800041 = 0x11 ∧
    rsvField 0x11800041 ≠ 0 ∧ (withModel (two 0xFFFFFFFF 0) true).busy = false ∧
    (withModel (two 0xFFFFFFFF 0) true).count[(0 : Byte).toNat]?.getD 0 = 0xFFFFFFFF := by decide

theorem countSum_eq (s : State) {n : Nat} (h : n ≤ 256) : countSum s n = cumulative s.count n := by
  induction n with
  | zero => simp [countSum, cumulative_zero]
  | succ n ih =>
    rw [cumulative_succ _ (by omega), ← ih (by omega)]
    simp only [countSum, Finset.sum_range_succ]
    rw [Vector.getElem?_eq_getElem (by omega)]
    rfl

/-- A zero total, the largest legal total, the smallest refused one. -/
theorem witness_FtCommitDerivesTheStarts : (withModel (two 0 0) false).busy = false ∧ countSum (withModel (two 0 0) false) 256 = 0 ∧
    countSum (withModel (two 1 0x3FFE) false) 256 = 0x3FFF ∧ countSum (withModel (two 0x4000 0) false) 256 = 0x4000 ∧ inHeld.busy = true ∧
    opcField 0x12000100 = opcField 0x12000000 ∧ (0x12000100 : Word) ≠ 0x12000000 := by
  simp only [countSum_eq _ (Nat.le_refl 256)]
  decide

theorem witness_CommittedStartsArePrefixSums : idle.busy = false ∧ idle.count[0x40] = 0 ∧ idle.count[0x41] ≠ 0 := by decide

theorem witness_EncInitOpensAStream : (dec4.busy = false ∧ dec4.modelValid = true) ∧
    ({ dec4 with modelValid := false }.busy = false ∧ { dec4 with modelValid := false }.modelValid = false) ∧ inHeld.busy = true ∧
    registerAt 0x000 = .cmd ∧ opcField 0x20000001 = opcField 0x20000000 ∧ (0x20000001 : Word) ≠ 0x20000000 := by decide

/-- A model with one symbol, in an open encode stream. -/
def only : State := { withModel (two 3 0) true with mode := .enc, low := 0x0800, high := 0xDFFF, pending := 1 }

theorem only_modelOk : only.ModelOk := by
  obtain ⟨a, b, c, d, e⟩ := withModel_ok (counts := two 3 0) true (by decide) (by decide)
  exact ⟨a, b, c, d, e⟩

/-- Each error clause; a coded symbol; an overflow; a state 16 below the maximum of PENDING; the only symbol of
a model. -/
theorem witness_EncSymNarrowsAndRenormalizes : outHeld.busy = true ∧ (idle.busy = false ∧ idle.mode ≠ .enc) ∧
    { enc4 with modelValid := false }.modelValid = false ∧ enc4.count[0x43]?.getD 0 = 0 ∧
    (enc4.busy = false ∧ enc4.mode = .enc ∧ enc4.modelValid = true ∧ enc4.count[0x42]?.getD 0 ≠ 0) ∧
    renormEnc (BitVec.ofNat 16 (narrowLow enc4 0x42 0x0000 0xD7FF)) (BitVec.ofNat 16 (narrowHigh enc4 0x42 0x0000 0xD7FF)) 0 =
      some ⟨0x0800, 0xDFFF, 1, [true]⟩ ∧
    renormEnc (BitVec.ofNat 16 (narrowLow { enc4 with count := two 0 4, start := derivedStarts (two 0 4) } 1 0x4000 0xBFFF))
      (BitVec.ofNat 16 (narrowHigh { enc4 with count := two 0 4, start := derivedStarts (two 0 4) } 1 0x4000 0xBFFF)) 0xFFFFFFFF = none ∧
    { enc4 with pending := 0xFFFFFFEF }.pending.toNat + 16 = 0xFFFFFFFF ∧
    (only.busy = false ∧ only.mode = .enc ∧ only.modelValid = true ∧ only.count[(0 : Byte).toNat]?.getD 0 ≠ 0 ∧
      (only.count[(0 : Byte).toNat]?.getD 0).toNat = only.total.toNat ∧ Settled only.low only.high) ∧ only.ModelOk :=
  ⟨by decide, by decide, by decide, by decide, by decide, by decide, by decide, by decide, by unfold Settled; decide, only_modelOk⟩

/-- Each error clause; a stream that ends; and, while BUSY with whole bytes ahead, a turn of the engine, a pop, a push and reset. -/
theorem witness_EncFinishTerminatesTheStream : (outHeld.busy = true ∧ (dec4.busy = false ∧ dec4.mode ≠ .enc) ∧
    ({ enc4 with pending := 0xFFFFFFFF }.busy = false ∧ { enc4 with pending := 0xFFFFFFFF }.mode = .enc ∧
      { enc4 with pending := 0xFFFFFFFF }.pending = 0xFFFFFFFF) ∧
    (enc4.busy = false ∧ enc4.mode = .enc ∧ enc4.pending ≠ 0xFFFFFFFF) ∧ opcField 0x22000080 = opcField 0x22000000 ∧
    (0x22000080 : Word) ≠ 0x22000000) ∧
    (lastBit.busy = true ∧ (lastBit.onb.val + lastBit.obl.length) % 8 = 0) ∧
    after (step lastBit) (fun t => !t.busy && t.onb == 0 && t.outQ == [0x58]) = true ∧
    (∃ t, step (rd { lastBit with outQ := [0x00] } 0x030) = .next t) ∧ (∃ t, step (wr lastBit 0x034 1) = .next t) ∧
    ∃ t, step { lastBit with agenda := [.reset] } = .next t :=
  ⟨by decide, by decide, by decide, ⟨_, rfl⟩, ⟨_, rfl⟩, ⟨_, rfl⟩⟩

theorem witness_FinishFillsTheLastByte : enc4.busy = false ∧ enc4.mode = .enc ∧ enc4.pending ≠ 0xFFFFFFFF := by decide

/-- One interval for each branch, at the edges of the tests; E1 comes before E3 (V43-4), E2 before E3. -/
theorem witness_RenormEncFollowsItsBranches : ((0x4000 : Half) ≤ 0x7FFF ∧ (0x7FFF : Half) < 0x8000) ∧
    ((0x8000 : Half) ≤ 0xBFFF ∧ ¬ (0xBFFF : Half) < 0x8000 ∧ (0x8000 : Half) ≤ 0x8000) ∧
    (¬ (0xBFFF : Half) < 0x8000 ∧ ¬ (0x8000 : Half) ≤ 0x4000 ∧ ((0x4000 : Half) ≤ 0x4000 ∧ (0xBFFF : Half) < 0xC000)) ∧
    (¬ (0xC000 : Half) < 0x8000 ∧ ¬ (0x8000 : Half) ≤ 0x4000 ∧ ¬ ((0x4000 : Half) ≤ 0x4000 ∧ (0xC000 : Half) < 0xC000)) := by decide

theorem witness_RenormDecFollowsItsBranches : ((0x4000 : Half) ≤ 0x7FFF ∧ (0x7FFF : Half) < 0x8000) ∧
    ((0x8000 : Half) ≤ 0xBFFF ∧ ¬ (0xBFFF : Half) < 0x8000 ∧ (0x8000 : Half) ≤ 0x8000) ∧
    (¬ (0xBFFF : Half) < 0x8000 ∧ ¬ (0x8000 : Half) ≤ 0x4000 ∧ ((0x4000 : Half) ≤ 0x4000 ∧ (0xBFFF : Half) < 0xC000)) ∧
    (¬ (0x8000 : Half) < 0x8000 ∧ ¬ (0x8000 : Half) ≤ 0x3FFF ∧ ¬ ((0x4000 : Half) ≤ 0x3FFF ∧ (0x8000 : Half) < 0xC000)) := by decide

theorem witness_RenormalizationSettles : (0x3FFF : Half) ≤ 0x3FFF ∧
    renormEnc 0x3FFF 0x3FFF 0 = some ⟨0x0000, 0xFFFF, 0, [false, false] ++ List.replicate 14 true⟩ := by decide

/-- The three branches, at the edges of their tests. -/
theorem witness_EachIterationDoublesTheWidth : (0x0000 : Half) ≤ 0x7FFF ∧ branchOf 0x0000 0x7FFF = some .e1 ∧ (0x8000 : Half) ≤ 0xFFFF ∧
    branchOf 0x8000 0xFFFF = some .e2 ∧ (0x4000 : Half) ≤ 0xBFFF ∧ branchOf 0x4000 0xBFFF = some .e3 := by decide

theorem witness_IterationNeverWraps : (0x7FFF : Half) ≤ 0x7FFF ∧ branchOf 0x7FFF 0x7FFF = some .e1 ∧ (0x8000 : Half) ≤ 0x8000 ∧
    branchOf 0x8000 0x8000 = some .e2 ∧ (0x7FFF : Half) ≤ 0x8000 ∧ branchOf 0x7FFF 0x8000 = some .e3 := by decide

theorem witness_EveryIterationOwesOneBit : renormEnc 0x9000 0xAFFF 2 = some ⟨0x0000, 0xFFFF, 1, [true, false, false, false]⟩ := by decide

theorem witness_DecoderRenormalizesInLockStep : renormEnc 0x3000 0x4FFF 3 = some ⟨0x0000, 0xFFFF, 2, [false, true, true, true]⟩ := by decide

theorem witness_NarrowStaysInside : (dec4.ModelOk ∧ Settled dec4.low dec4.high) ∧ idle.ModelOk ∧
    1 ≤ (idle.count[(0x42 : Byte).toNat]?.getD 0).toNat ∧ (0x3FFF : Half) ≤ 0x4002 ∧
    idle.total.toNat = (0x4002 : Half).toNat - (0x3FFF : Half).toNat + 1 :=
  ⟨⟨dec4_inv.model rfl, dec4_inv.interval⟩, idle_modelOk, by decide⟩

theorem witness_LookupFindsTheOneSymbol : idle.ModelOk ∧ 3 < idle.total.toNat ∧ InInterval idle 3 0x42 := ⟨idle_modelOk, by decide, by unfold InInterval; decide⟩

theorem witness_DecInitOpensAStream : (enc4.busy = false ∧ enc4.modelValid = true) ∧
    ({ enc4 with modelValid := false }.busy = false ∧ { enc4 with modelValid := false }.modelValid = false) ∧ outHeld.busy = true ∧
    opcField 0x30000001 = opcField 0x30000000 ∧ (0x30000001 : Word) ≠ 0x30000000 := by decide

theorem witness_DecSymFindsTheSymbol : inHeld.busy = true ∧ (enc4.busy = false ∧ enc4.mode ≠ .dec) ∧
    ({ dec4 with modelValid := false }.busy = false ∧ { dec4 with modelValid := false }.mode = .dec ∧
      { dec4 with modelValid := false }.modelValid = false) ∧
    (dec4.busy = false ∧ dec4.mode = .dec ∧ dec4.modelValid = true) ∧ dec4.Inv ∧ opcField 0x31000041 = opcField 0x31000000 ∧
    (0x31000041 : Word) ≠ 0x31000000 :=
  ⟨by decide, by decide, by decide, by decide, dec4_inv, by decide, by decide⟩

theorem witness_ClampNeverTakesEffect : { dec4 with value := 0xD7FF }.low ≤ 0xD7FF ∧ (0xD7FF : Half) ≤ dec4.high ∧ 1 ≤ dec4.total.toNat := by
  decide

theorem witness_FoundIntervalHoldsTheValue : dec4.ModelOk ∧ Settled dec4.low dec4.high ∧ dec4.low ≤ dec4.value ∧ dec4.value ≤ dec4.high :=
  ⟨dec4_inv.model rfl, dec4_inv.interval, by decide, by decide⟩

theorem witness_StepKeepsTheInvariant : (cmd idle .decInit).Inv ∧ ∃ t, step (cmd idle .decInit) = .next t := ⟨idle_inv _, _, rfl⟩

/-- A byte that is completed with one place left in OUT, and one that is not. -/
theorem witness_PutStepPacksTheNextBit :
    ({ outHeld with outQ := [] }.obl = [true, false] ∧ { outHeld with outQ := [] }.onb = 7 ∧
      ¬ ({ outHeld with outQ := [] }.onb = 7 ∧ { outHeld with outQ := [] }.outQ.length = { outHeld with outQ := [] }.params.outDepth)) ∧
    ({ outHeld with onb := 6 }.obl = [true, false] ∧
      ¬ ({ outHeld with onb := 6 }.onb = 7 ∧ { outHeld with onb := 6 }.outQ.length = { outHeld with onb := 6 }.params.outDepth)) := by decide

theorem witness_GetStepShiftsInTheNextBit : inHeld.obl = [] ∧ inHeld.ibl = [.zero, .zero] ∧
    { inHeld with inQ := [0xA9] }.unreadBits = [true, false, true, false, true, false, false, true] ∧
    ({ inHeld with eos := true }.unreadBits = [] ∧ { inHeld with eos := true }.eos = true) ∧ (inHeld.unreadBits = [] ∧ inHeld.eos = false) := by
  decide

theorem witness_HeldExactlyInTheTwoWaits : (inHeld.obl = [] ∧ inHeld.held = true) ∧ (outHeld.ibl = [] ∧ outHeld.held = true) := by decide

/-- Every lifting step lifts a hold of a state of the invariant: reset, a pop, a push, setting EOS. -/
theorem witness_OnlyTheListedStepsLiftAHold :
    (∃ t, step { outHeld with agenda := [.reset] } = .next t ∧ (!t.held) = true) ∧
    (∃ t, step (rd outHeld 0x030) = .next t ∧ (!t.held) = true) ∧ (∃ t, step (wr inHeld 0x034 0x58) = .next t ∧ (!t.held) = true) ∧
    (∃ t, step (wr inHeld 0x03C 1) = .next t ∧ (!t.held) = true) ∧ ((rd outHeld 0x030).Inv ∧ (rd outHeld 0x030).outWait = true) ∧
    ((wr inHeld 0x034 0x58).Inv ∧ (wr inHeld 0x034 0x58).inWait = true) ∧ (wr inHeld 0x03C 1).Inv ∧ registerAt 0x030 = .outData ∧
    registerAt 0x034 = .inData ∧ registerAt 0x03C = .inCtrl :=
  ⟨exists_of_after (by decide), exists_of_after (by decide), exists_of_after (by decide), exists_of_after (by decide), ⟨outHeld_inv _, by decide⟩,
    ⟨inHeld_inv _, by decide⟩, inHeld_inv _, by decide, by decide, by decide⟩

/-- Exactly enough room in OUT. -/
theorem witness_OutputBacklogIsPackedInOrder : { outHeld with outQ := [] }.agenda = [] ∧ { outHeld with outQ := [] }.ibl = [] ∧
    { outHeld with outQ := [] }.outQ.length + ({ outHeld with outQ := [] }.onb.val + { outHeld with outQ := [] }.obl.length) / 8 =
      { outHeld with outQ := [] }.params.outDepth := by decide

/-- Exactly enough bits, and none with EOS. -/
theorem witness_InputBacklogIsShiftedInOrder : inHeld.agenda = [] ∧ inHeld.obl = [] ∧
    { inHeld with inb := 2 }.ibl.length = { inHeld with inb := 2 }.unreadBits.length ∧ { inHeld with eos := true }.eos = true := by decide

theorem witness_RegisterMap : (0x048 : Offset).toNat = 0x048 ∧ (0x3FC : Offset).toNat < 0x400 ∧ 0xC04 ≤ (0xC04 : Offset).toNat ∧
    0xC04 ≤ (0xFFF : Offset).toNat := by decide

theorem witness_ReadValues : outHeld.outQ.length < 2 ^ 16 ∧ outHeld.inQ.length < 2 ^ 16 := by decide

theorem witness_ReadsHaveNoEffectButThePop : (rd outHeld 0x004).nextRead .status 0x004 [] ∧ (rd outHeld 0x030).nextRead .outData 0x030 [] :=
  ⟨⟨by decide, rfl⟩, ⟨by decide, rfl⟩⟩

theorem witness_OutDataPopsTheOldestByte : (rd outHeld 0x030).nextRead .outData 0x030 [] ∧ (rd outHeld 0x030).outQ = [0x00] ∧
    (rd idle 0x033).nextRead .outData 0x033 [] ∧ (rd idle 0x033).outQ = [] := ⟨⟨by decide, rfl⟩, rfl, ⟨by decide, rfl⟩, rfl⟩

theorem witness_StatusFields : registerAt 0x004 = .status ∧ registerAt 0x007 = .status := by decide

/-- IN one byte short of full, and full. -/
theorem witness_InDataPushesOrOverflows : registerAt 0x034 = .inData ∧
    { idle with inQ := [1, 2, 3] }.inQ.length + 1 = { idle with inQ := [1, 2, 3] }.params.inDepth ∧
    { idle with inQ := [1, 2, 3, 4] }.inQ.length = { idle with inQ := [1, 2, 3, 4] }.params.inDepth := by decide

theorem witness_ErrIsWriteOneToClear : registerAt 0x008 = .err ∧ registerAt 0x00B = .err := by decide

theorem witness_OtherRegisterWrites : registerAt 0x03C = .inCtrl ∧ registerAt 0x400 = .count 0 ∧ registerAt 0x7FC = .count 0xFF ∧
    registerAt 0x004 = .status ∧ registerAt 0x800 = .start 0 ∧ registerAt 0xC00 = .start 256 ∧ registerAt 0x048 = .reserved ∧
    registerAt 0x030 = .outData := by decide

theorem witness_ResetFromAnyState : { inHeld with agenda := [.reset] }.agenda = .reset :: [] := rfl

theorem witness_WritersOfTheInterval : ∃ t, step (cmd enc4 (.encSym 0x42)) = .next t ∧ (t.low != 0x0000) = true := exists_of_after (by decide)

theorem witness_WritersOfValue : (∃ t, step { dec4 with ibl := [.half] } = .next t ∧ (t.value != 0xB000) = true) ∧
    ∃ t, step (cmd dec4 .decInit) = .next t ∧ (t.value != 0xB000) = true := ⟨exists_of_after (by decide), exists_of_after (by decide)⟩

theorem witness_WritersOfPending : ∃ t, step (cmd enc4 (.encSym 0x42)) = .next t ∧ (t.pending != 0) = true := exists_of_after (by decide)

/-- MODE becoming ENC, DEC, and NONE by ENC_FINISH. -/
theorem witness_WritersOfMode : (∃ t, step (cmd idle .encInit) = .next t ∧ (t.mode == .enc) = true) ∧
    (∃ t, step (cmd idle .decInit) = .next t ∧ (t.mode == .dec) = true) ∧
    ∃ t, step (cmd enc4 .encFinish) = .next t ∧ (t.mode == .none) = true :=
  ⟨exists_of_after (by decide), exists_of_after (by decide), exists_of_after (by decide)⟩

/-- MODEL_VALID becoming 1 and becoming 0; and each of the three writers that always clear it. -/
theorem witness_WritersOfModelValid : (∃ t, step (cmd { idle with modelValid := false } .ftCommit) = .next t ∧ t.modelValid = true) ∧
    (∃ t, step (cmd idle (.ftInc 0x41)) = .next t ∧ (!t.modelValid) = true) ∧ (cmd idle .ftClear).nextRuns .ftClear ∧
    (cmd idle (.ftInc 0)).nextRuns (.ftInc 0) ∧ (wr idle 0x400 0).nextWrite (.count 0) 0 [] :=
  ⟨exists_of_after (by decide), exists_of_after (by decide), nextRuns_cmd (by decide) _, nextRuns_cmd (by decide) _, ⟨0x400, by decide, rfl⟩⟩

theorem witness_WritersOfResult : (∃ t, step (cmd dec4 .decSym) = .next t ∧ (t.result != 0x41) = true) ∧
    (∃ t, step (cmd { dec4 with resultValid := false } .decSym) = .next t ∧ t.resultValid = true) ∧
    ∃ t, step (cmd dec4 .abort) = .next t ∧ (!t.resultValid) = true :=
  ⟨exists_of_after (by decide), exists_of_after (by decide), exists_of_after (by decide)⟩

theorem witness_WritersOfTheTable : (∃ t, step (cmd { idle with total := 0 } .ftCommit) = .next t ∧ (t.total != 0) = true) ∧
    ∃ t, step (wr idle 0x504 9) = .next t ∧ (t.countOf 0x41 != 3) = true := ⟨exists_of_after (by decide), exists_of_after (by decide)⟩

theorem witness_WritersOfTheStreams : (∃ t, step { outHeld with outQ := [] } = .next t ∧ (t.onb != 7) = true) ∧
    (∃ t, step { inHeld with inQ := [0x58] } = .next t ∧ (t.inb != 0) = true) ∧
    (∃ t, step (rd outHeld 0x030) = .next t ∧ (t.outQ != [0x00]) = true) ∧ (∃ t, step (wr idle 0x034 1) = .next t ∧ (t.inQ != []) = true) ∧
    ∃ t, step (wr idle 0x03C 1) = .next t ∧ t.eos = true :=
  ⟨exists_of_after (by decide), exists_of_after (by decide), exists_of_after (by decide), exists_of_after (by decide), exists_of_after (by decide)⟩

/-- A bit set by a CMD write, bit 7 by a push, a bit cleared, ERR_CMD changed. -/
theorem witness_ErrorBitsAreSticky : (∃ t, step (wr idle 0x000 0x02000000) = .next t ∧ (t.err.getLsbD 0 && t.errCmd != 0) = true) ∧
    (∃ t, step (wr { idle with inQ := [1, 2, 3, 4] } 0x034 1) = .next t ∧ t.err.getLsbD 7 = true) ∧
    ∃ t, step (wr { idle with err := 0x80 } 0x008 0x80) = .next t ∧ (!t.err.getLsbD 7) = true :=
  ⟨exists_of_after (by decide), exists_of_after (by decide), exists_of_after (by decide)⟩

theorem witness_WritersOfTheBacklogs : (∃ t, step (cmd enc4 .encFinish) = .next t ∧ (t.obl != []) = true) ∧
    (∃ t, step (cmd dec4 .decSym) = .next t ∧ (t.ibl != []) = true) ∧
    ∃ t, step { inHeld with eos := true } = .next t ∧ (t.ibl == [.zero]) = true :=
  ⟨exists_of_after (by decide), exists_of_after (by decide), exists_of_after (by decide)⟩

/-- An idle state; no data, one byte, the most a model takes, and one more. -/
theorem witness_BuiltTableCountsTheData : enc4.busy = false ∧ ([] : List Byte).length = 0 ∧ ([0x41] : List Byte).length = 1 ∧
    (List.replicate 0x3FFF (0xFF : Byte)).length = 0x3FFF ∧ (List.replicate 0x4000 (0xFF : Byte)).length = 0x4000 :=
  ⟨by decide, rfl, rfl, List.length_replicate, List.length_replicate⟩

end Sys2Proof.Tests
end

/-! ### Proofs: one iteration of renormalization, and the loops -/

namespace Sys2Proof.Machine

open Sys2Proof

/-- Under the test of a branch, both bounds hold its subtrahend and the difference fits in 15 bits (R368). -/
theorem branch_bounds {low high : Half} {b : Branch} (hle : low ≤ high) (hb : branchOf low high = some b) :
    b.subtrahend.val.toNat ≤ low.toNat ∧ low.toNat ≤ high.toNat ∧ high.toNat - b.subtrahend.val.toNat < 0x8000 := by
  have hle := BitVec.le_def.mp hle
  have hlt := high.isLt
  cases b with
  | e1 =>
    have := branchOf_e1.mp hb
    simp only [Branch.subtrahend, subtrahend_zero_toNat]
    omega
  | e2 =>
    have := branchOf_e2.mp hb
    simp only [Branch.subtrahend, subtrahend_half_toNat]
    omega
  | e3 =>
    have := branchOf_e3.mp hb
    simp only [Branch.subtrahend, subtrahend_quarter_toNat]
    omega

theorem nextLow_toNat {low high : Half} {b : Branch} (hle : low ≤ high) (hb : branchOf low high = some b) :
    (b.nextLow low).toNat = 2 * (low.toNat - b.subtrahend.val.toNat) := by
  have ⟨hc, hlh, hs⟩ := branch_bounds hle hb
  rw [Branch.nextLow, shiftLow_toNat (by rw [sub_toNat hc]; omega), sub_toNat hc]

theorem nextHigh_toNat {low high : Half} {b : Branch} (hle : low ≤ high) (hb : branchOf low high = some b) :
    (b.nextHigh high).toNat = 2 * (high.toNat - b.subtrahend.val.toNat) + 1 := by
  have ⟨hc, hlh, hs⟩ := branch_bounds hle hb
  have hc' := Nat.le_trans hc hlh
  rw [Branch.nextHigh, shiftHigh_toNat (by rw [sub_toNat hc']; exact hs), sub_toNat hc']

theorem nextLow_le_nextHigh {low high : Half} {b : Branch} (hle : low ≤ high) (hb : branchOf low high = some b) :
    b.nextLow low ≤ b.nextHigh high := by
  have ⟨_, hlh, _⟩ := branch_bounds hle hb
  rw [BitVec.le_def, nextLow_toNat hle hb, nextHigh_toNat hle hb]
  omega

/-- An iteration doubles the width exactly (R367). -/
theorem rangeOf_next {low high : Half} {b : Branch} (hle : low ≤ high) (hb : branchOf low high = some b) :
    rangeOf (b.nextLow low) (b.nextHigh high) = 2 * rangeOf low high := by
  have ⟨hc, hlh, _⟩ := branch_bounds hle hb
  rw [rangeOf, rangeOf, nextLow_toNat hle hb, nextHigh_toNat hle hb]
  omega

theorem rangeOf_le (low high : Half) : rangeOf low high ≤ 2 ^ 16 := by
  have := high.isLt
  unfold rangeOf
  omega

/-- The interval of the full width is settled. -/
theorem settled_of_full {low high : Half} (h : 2 ^ 16 ≤ rangeOf low high) : Settled low high := by
  have := high.isLt
  rw [settled_iff, branchOf_none]
  unfold rangeOf at h
  omega

theorem renormDecLoop_none (n : Nat) {low high : Half} (h : branchOf low high = none) :
    renormDecLoop n low high [] = ⟨low, high, []⟩ := by
  cases n with
  | zero => rfl
  | succ n => simp only [renormDecLoop, h]

theorem renormDecLoop_some (n : Nat) {low high : Half} {b : Branch} (h : branchOf low high = some b) :
    renormDecLoop (n + 1) low high [] =
      { renormDecLoop n (b.nextLow low) (b.nextHigh high) [] with
        subs := b.subtrahend :: (renormDecLoop n (b.nextLow low) (b.nextHigh high) []).subs } := by
  simp only [renormDecLoop, h]
  rw [renormDecLoop_subs]
  rfl

/-- The decoder's loop settles as soon as its bound allows for doubling up to the full width (R366, R367). -/
theorem renormDecLoop_settled (n : Nat) {low high : Half} (hle : low ≤ high) (hw : 2 ^ 16 ≤ 2 ^ n * rangeOf low high) :
    Settled (renormDecLoop n low high []).low (renormDecLoop n low high []).high := by
  induction n generalizing low high with
  | zero => exact settled_of_full (by rwa [Nat.pow_zero, Nat.one_mul] at hw)
  | succ n ih =>
    cases hb : branchOf low high with
    | none =>
      rw [renormDecLoop_none _ hb]
      exact settled_iff.mpr hb
    | some b =>
      rw [renormDecLoop_some n hb]
      refine ih (nextLow_le_nextHigh hle hb) ?_
      rw [rangeOf_next hle hb, ← Nat.mul_assoc, ← Nat.pow_succ]
      exact hw

/-- RenormDec returns a settled interval (R366). -/
theorem renormDec_settled {low high : Half} (hle : low ≤ high) : Settled (renormDec low high).low (renormDec low high).high := by
  refine renormDecLoop_settled _ hle ?_
  simp only [Config.maxIterations, rangeOf]
  omega

/-- The encoder's loop goes through the decoder's intervals (R409). -/
theorem renormEncLoop_bounds (n : Nat) {low high : Half} {pending : Word} {r : EncResult} :
    renormEncLoop n low high pending [] = some r →
      r.low = (renormDecLoop n low high []).low ∧ r.high = (renormDecLoop n low high []).high := by
  induction n generalizing low high pending r with
  | zero => rintro ⟨rfl⟩; exact ⟨rfl, rfl⟩
  | succ n ih =>
    intro h
    cases hb : branchOf low high with
    | none =>
      simp only [renormEncLoop, hb] at h
      cases h
      rw [renormDecLoop_none _ hb]
      exact ⟨rfl, rfl⟩
    | some b =>
      rw [renormDecLoop_some n hb]
      cases b with
      | e3 =>
        simp only [renormEncLoop, hb] at h
        split at h
        · cases h
        · exact ih h
      | _ =>
        simp only [renormEncLoop, hb] at h
        rw [renormEncLoop_bits] at h
        obtain ⟨r', hr', rfl⟩ := Option.map_eq_some_iff.mp h
        exact ih (r := r') hr'

theorem renormEnc_bounds {low high : Half} {pending : Word} {r : EncResult} (h : renormEnc low high pending = some r) :
    r.low = (renormDec low high).low ∧ r.high = (renormDec low high).high :=
  renormEncLoop_bounds _ h

/-- RenormEnc returns a settled interval (R366). -/
theorem renormEnc_settled {low high : Half} {pending : Word} {r : EncResult} (hle : low ≤ high)
    (h : renormEnc low high pending = some r) : Settled r.low r.high := by
  obtain ⟨hl, hh⟩ := renormEnc_bounds h
  rw [hl, hh]
  exact renormDec_settled hle

/-- A shift of VALUE with its branch's subtrahend follows the interval (R408, R411). -/
theorem shiftValue_mem_next {low high v : Half} {b : Branch} (hb : branchOf low high = some b) (hl : low ≤ v) (hh : v ≤ high)
    (bit : Bool) : b.nextLow low ≤ shiftValue v b.subtrahend bit ∧ shiftValue v b.subtrahend bit ≤ b.nextHigh high := by
  have hle := BitVec.le_trans hl hh
  have ⟨hc, _, hs⟩ := branch_bounds hle hb
  have hl := BitVec.le_def.mp hl
  have hh := BitVec.le_def.mp hh
  have hbit : bit.toNat ≤ 1 := by cases bit <;> decide
  rw [BitVec.le_def, BitVec.le_def, nextLow_toNat hle hb, nextHigh_toNat hle hb, shiftValue_toNat bit (by omega) (by omega)]
  omega

/-- A VALUE inside the interval fits the shifts that the decoder's loop records (R408, R411). -/
theorem valueFits_renormDecLoop (n : Nat) {low high v : Half} (hl : low ≤ v) (hh : v ≤ high) :
    ValueFits (renormDecLoop n low high []).low (renormDecLoop n low high []).high (renormDecLoop n low high []).subs v := by
  induction n generalizing low high v with
  | zero => exact ⟨hl, hh⟩
  | succ n ih =>
    cases hb : branchOf low high with
    | none =>
      rw [renormDecLoop_none _ hb]
      exact ⟨hl, hh⟩
    | some b =>
      rw [renormDecLoop_some n hb]
      have ⟨hc, _, _⟩ := branch_bounds (BitVec.le_trans hl hh) hb
      refine ⟨BitVec.le_trans (BitVec.le_def.mpr hc) hl, fun bit => ?_⟩
      obtain ⟨hl', hh'⟩ := shiftValue_mem_next hb hl hh bit
      exact ih hl' hh'

theorem valueFits_renormDec {low high v : Half} (hl : low ≤ v) (hh : v ≤ high) :
    ValueFits (renormDec low high).low (renormDec low high).high (renormDec low high).subs v :=
  valueFits_renormDecLoop _ hl hh

/-- The priming shifts subtract nothing, and every VALUE lies in the full interval (R406). -/
theorem valueFits_priming (n : Nat) (v : Half) : ValueFits 0x0000 Config.maxRange (List.replicate n .zero) v := by
  induction n generalizing v with
  | zero => exact ⟨BitVec.le_def.mpr (Nat.zero_le _), BitVec.le_def.mpr (Nat.le_of_lt_succ v.isLt)⟩
  | succ n ih => exact ⟨BitVec.le_def.mpr (Nat.zero_le _), fun bit => ih _⟩

end Sys2Proof.Machine
/-! ### Proofs: narrowing, the search for a symbol, and VALUE inside the found interval -/

namespace Sys2Proof.Machine

open Sys2Proof

/-- Scaling a part `a, c` of a total `t` to a range of at least `t` keeps it non-empty and inside the range (R306). -/
theorem scaled_part {r a c t : Nat} (hc : 1 ≤ c) (hac : a + c ≤ t) (htr : t ≤ r) :
    r * a / t < r * (a + c) / t ∧ r * (a + c) / t ≤ r := by
  have ht : 0 < t := by omega
  constructor
  · calc r * a / t < r * a / t + 1 := Nat.lt_succ_self _
      _ = (r * a + t) / t := (Nat.add_div_right _ ht).symm
      _ ≤ r * (a + c) / t := by
        refine Nat.div_le_div_right ?_
        rw [Nat.mul_add]
        exact Nat.add_le_add_left (Nat.le_trans htr (Nat.le_mul_of_pos_right r hc)) _
  · refine Nat.div_le_of_le_mul ?_
    rw [Nat.mul_comm t]
    exact Nat.mul_le_mul_left r hac

/-- Dividing into the range and scaling back: the part that holds the quotient of `k` holds `k` (R408). -/
theorem scaled_part_holds {r a c t k : Nat} (hr : 0 < r) (ht : 0 < t) (hk : 1 ≤ k) (hl : a ≤ (k * t - 1) / r) (hh : (k * t - 1) / r < a + c) :
    r * a / t < k ∧ k ≤ r * (a + c) / t := by
  have hkt : 0 < k * t := Nat.mul_pos hk ht
  rw [Nat.le_div_iff_mul_le hr, Nat.mul_comm] at hl
  rw [Nat.div_lt_iff_lt_mul hr, Nat.mul_comm (a + c)] at hh
  rw [Nat.div_lt_iff_lt_mul ht, Nat.le_div_iff_mul_le ht]
  omega

/-! #### The bounds of Narrow (R305, R306) -/

section Narrow

variable {s : State} {sym : Byte} {low high : Half}

/-- The bounds of R305 do not wrap, nor does the subtraction go below 0. -/
theorem narrow_toNat (hm : s.ModelOk) (hc : 1 ≤ s.countOf sym) (hle : low ≤ high) (hw : s.total.toNat ≤ rangeOf low high) :
    (s.narrow sym low high).1.toNat = low.toNat + rangeOf low high * s.startOf sym / s.total.toNat ∧
      (s.narrow sym low high).2.toNat + 1 = low.toNat + rangeOf low high * (s.startOf sym + s.countOf sym) / s.total.toNat := by
  have ⟨hlt, hr⟩ := scaled_part hc (symbolEnd_le hm sym) hw
  have hle := BitVec.le_def.mp hle
  have hhigh := high.isLt
  have hrange : rangeOf low high = high.toNat - low.toNat + 1 := rfl
  simp only [State.narrow, BitVec.toNat_ofNat]
  generalize rangeOf low high * s.startOf sym / s.total.toNat = q at hlt ⊢
  omega

/-- Narrow never empties or inverts an interval and stays inside it (R306). -/
theorem narrow_inside (hm : s.ModelOk) (hc : 1 ≤ s.countOf sym) (hle : low ≤ high) (hw : s.total.toNat ≤ rangeOf low high) :
    low ≤ (s.narrow sym low high).1 ∧ (s.narrow sym low high).1 ≤ (s.narrow sym low high).2 ∧ (s.narrow sym low high).2 ≤ high := by
  have ⟨hlt, hr⟩ := scaled_part hc (symbolEnd_le hm sym) hw
  have ⟨hn1, hn2⟩ := narrow_toNat hm hc hle hw
  have hrange : rangeOf low high = high.toNat - low.toNat + 1 := rfl
  have hle := BitVec.le_def.mp hle
  simp only [BitVec.le_def]
  generalize rangeOf low high * s.startOf sym / s.total.toNat = q at hlt hn1
  omega

theorem rangeOf_pos (low high : Half) : 0 < rangeOf low high := Nat.succ_pos _

theorem settled_le (h : Settled low high) : low ≤ high := by
  obtain ⟨hl, hh, _⟩ := h
  simp only [BitVec.lt_def, BitVec.le_def, half_toNat] at hl hh ⊢
  omega

/-- A settled interval is wide enough for every valid table (R306, R366). -/
theorem total_le_range (hm : s.ModelOk) (hs : Settled low high) : s.total.toNat ≤ rangeOf low high := by
  have hmax := hm.totalMax
  rw [settled_iff, branchOf_none] at hs
  simp only [Config.maxTotal, rangeOf] at hmax ⊢
  omega

end Narrow

/-! #### Lookup and FreqVal (R307, R308, R403, R404) -/

theorem exists_start_interval {s : State} (hm : s.ModelOk) {fv n : Nat} (hn : n < 257) (hfv : fv < (s.start[n]).toNat) :
    ∃ m, ∃ h : m < 256, (s.start[m]).toNat ≤ fv ∧ fv < (s.start[m]).toNat + (s.count[m]).toNat := by
  induction n with
  | zero =>
    have := hm.startZero
    omega
  | succ n ih =>
    rcases Nat.lt_or_ge fv (s.start[n]).toNat with hlt | hge
    · exact ih (by omega) hlt
    · refine ⟨n, by omega, hge, ?_⟩
      rw [hm.startSucc n (by omega)]
      exact hfv

/-- Below TOTAL some symbol qualifies, so the search finds one (R307, R308). -/
theorem covers_lookup_of_lt {s : State} (hm : s.ModelOk) {fv : Nat} (hfv : fv < s.total.toNat) :
    s.startOf (s.lookup fv) ≤ fv ∧ fv < s.startOf (s.lookup fv) + s.countOf (s.lookup fv) := by
  rw [← hm.startLast] at hfv
  obtain ⟨m, h, hle, hlt⟩ := exists_start_interval hm (by omega) hfv
  have hsym : (BitVec.ofNat 8 m).toNat = m := by rw [BitVec.toNat_ofNat]; omega
  refine (covers_iff ..).mp (covers_lookup (sym := BitVec.ofNat 8 m) ((covers_iff ..).mpr ?_))
  simp only [State.startOf, State.countOf, hsym]
  exact ⟨hle, hlt⟩

/-- With VALUE inside the interval the clamp of FreqVal takes no effect (R403, R404). -/
theorem freqVal_eq {s : State} (hl : s.low ≤ s.value) (hh : s.value ≤ s.high) (ht : 1 ≤ s.total.toNat) :
    s.freqVal = ((s.value.toNat - s.low.toNat + 1) * s.total.toNat - 1) / rangeOf s.low s.high ∧ s.freqVal < s.total.toNat := by
  have hl := BitVec.le_def.mp hl
  have hh := BitVec.le_def.mp hh
  have hlt : ((s.value.toNat - s.low.toNat + 1) * s.total.toNat - 1) / rangeOf s.low s.high < s.total.toNat := by
    have hk : s.value.toNat - s.low.toNat + 1 ≤ rangeOf s.low s.high := by unfold rangeOf; omega
    have hkt := Nat.mul_le_mul_right s.total.toNat hk
    rw [Nat.div_lt_iff_lt_mul (rangeOf_pos ..), Nat.mul_comm s.total.toNat]
    exact Nat.lt_of_lt_of_le (Nat.sub_one_lt (Nat.mul_pos (Nat.succ_pos _) ht).ne') hkt
  unfold State.freqVal
  dsimp only
  rw [if_neg (by omega)]
  exact ⟨rfl, hlt⟩

/-- The symbol that DEC_SYM finds has a count, and its sub-interval holds VALUE (R308, R408). -/
theorem found_interval_holds_value {s : State} (hm : s.ModelOk) (hs : Settled s.low s.high) (hl : s.low ≤ s.value)
    (hh : s.value ≤ s.high) :
    1 ≤ s.countOf (s.lookup s.freqVal) ∧ (s.narrow (s.lookup s.freqVal) s.low s.high).1 ≤ s.value ∧
      s.value ≤ (s.narrow (s.lookup s.freqVal) s.low s.high).2 := by
  have ⟨hfv, hlt⟩ := freqVal_eq hl hh hm.totalPos
  have ⟨hstart, hend⟩ := covers_lookup_of_lt hm hlt
  have hc : 1 ≤ s.countOf (s.lookup s.freqVal) := by omega
  have ⟨hn1, hn2⟩ := narrow_toNat hm hc (settled_le hs) (total_le_range hm hs)
  generalize s.lookup s.freqVal = sym at *
  rw [hfv] at hstart hend
  have ⟨hk1, hk2⟩ := scaled_part_holds (rangeOf_pos ..) hm.totalPos (Nat.succ_pos _) hstart hend
  have hl := BitVec.le_def.mp hl
  simp only [BitVec.le_def]
  generalize rangeOf s.low s.high * s.startOf sym / s.total.toNat = q at hk1 hn1
  omega

end Sys2Proof.Machine
/-! ### Proofs: everything one step can do, down to the commands -/

namespace Sys2Proof.Machine

open Sys2Proof

/-- What one step does, by the event it takes from the agenda: `step_cases` and `write_effects` in one case split. -/
inductive StepEffect (s : State) : State → Prop where
  | engine (rest) (hn : s.engineNext) : StepEffect s ({ s with agenda := rest } : State).engineTurn
  | read (off rest) (hn : s.agenda = .host (.read off) :: rest) : StepEffect s (busRead off { s with agenda := rest })
  | refuse (e w rest) (hn : s.nextCommand w rest) (he : e ≠ .inOverflow) : StepEffect s (({ s with agenda := rest } : State).raise e w)
  | run (i rest) (hr : s.nextRuns i) (hn : s.nextCommand (encode i) rest) (hf : firstError i s = none) :
      StepEffect s (effectOf i { s with agenda := rest })
  | clearErr (v rest) (hn : s.nextWrite .err v rest) : StepEffect s { s with agenda := rest, err := clearErrBits s.err v }
  | push (v rest) (hn : s.nextWrite .inData v rest) : StepEffect s (({ s with agenda := rest } : State).pushIn (v.setWidth 8))
  | setEos (v rest) (hn : s.nextWrite .inCtrl v rest) : StepEffect s { s with agenda := rest, eos := v.getLsbD 0 }
  | setCount (sym v rest) (hn : s.nextWrite (.count sym) v rest) :
      StepEffect s { ({ s with agenda := rest } : State).setCount sym v with modelValid := false }
  | ignored (rest) : StepEffect s { s with agenda := rest }
  | reset (rest) (hn : s.resetNext) : StepEffect s ({ s with agenda := rest } : State).applyReset

theorem stepEffect_of_step {s t : State} (h : step s = .next t) : StepEffect s t := by
  rcases step_cases h with ⟨rest, ha, rfl⟩ | ⟨off, rest, ha, rfl⟩ | ⟨off, v, rest, ha, hw⟩ | ⟨rest, ha, rfl⟩
  · exact .engine rest (ha.imp And.left fun ha => ⟨rest, ha⟩)
  · exact .read off rest ha
  · rcases write_effects ha hw with ⟨e, hn, he, rfl⟩ | ⟨i, hr, hn, hf, rfl⟩ | ⟨hn, rfl⟩ | ⟨hn, rfl⟩ | ⟨hn, rfl⟩ | ⟨sym, hn, rfl⟩ | rfl
    · exact .refuse e v rest hn he
    · exact .run i rest hr hn hf
    · exact .clearErr v rest hn
    · exact .push v rest hn
    · exact .setEos v rest hn
    · exact .setCount sym v rest hn
    · exact .ignored rest
  · exact .reset rest ⟨rest, ha⟩

end Sys2Proof.Machine

/-! ### Proofs: the invariant -/

namespace Sys2Proof.Machine

open Sys2Proof

/-- The interval of ENC_INIT, DEC_INIT, ABORT and reset. -/
theorem settled_maxRange : Settled 0x0000 Config.maxRange := settled_of_full (by decide)

/-- R42 speaks of MODEL_VALID and the table alone. -/
theorem State.Inv.model_of_table {s t : State} (h : s.Inv) (hv : t.modelValid = s.modelValid) (hs : t.start = s.start)
    (hc : t.count = s.count) (ht : t.total = s.total) (hvalid : t.modelValid = true) : t.ModelOk := by
  obtain ⟨h1, h2, h3, h4, h5⟩ := h.model (hv ▸ hvalid)
  constructor <;> simpa only [hs, hc, ht]

/-- R43 of an empty packer. -/
theorem packer_empty : (0 : Byte).toNat < 2 ^ (0 : Fin 8).val := by decide

/-! #### Host accesses, refusals and reset -/

section HostSide

variable {s : State}

theorem inv_agenda (h : s.Inv) (rest : List Event) : State.Inv { s with agenda := rest } :=
  { h with model := h.model_of_table rfl rfl rfl rfl }

theorem inv_errors (h : s.Inv) (err : Byte) (errCmd : Word) : State.Inv { s with err := err, errCmd := errCmd } :=
  { h with model := h.model_of_table rfl rfl rfl rfl }

theorem inv_raise (h : s.Inv) (e : Err) (w : Word) : (s.raise e w).Inv := inv_errors h _ _

theorem inv_eos (h : s.Inv) (eos : Bool) : State.Inv { s with eos := eos } :=
  { h with model := h.model_of_table rfl rfl rfl rfl }

/-- A read at most shortens OUT (R102, R259). -/
theorem inv_busRead (h : s.Inv) (off : Offset) : (busRead off s).Inv := by
  unfold busRead State.afterRead
  split
  · exact { h with
      model := h.model_of_table rfl rfl rfl rfl
      outRoom := Nat.le_trans (List.tail_sublist s.outQ).length_le h.outRoom }
  · exact { h with model := h.model_of_table rfl rfl rfl rfl }

/-- The push is refused when IN is full (R260). -/
theorem inv_pushIn (h : s.Inv) (b : Byte) : (s.pushIn b).Inv := by
  by_cases hq : s.inQ.length < s.params.inDepth
  · rw [pushIn_room b hq]
    exact { h with
      inRoom := by simpa using hq
      model := h.model_of_table rfl rfl rfl rfl }
  · rw [pushIn_full b hq]
    exact inv_errors h _ _

/-- Any change of COUNT that clears MODEL_VALID keeps the invariant (R62, R301, R302). -/
theorem inv_count (h : s.Inv) (count : Vector Word 256) : State.Inv { s with count := count, modelValid := false } :=
  { h with model := fun hv => nomatch hv }

theorem inv_resetState (k : Nat) (params : Config.Params) (agenda : List Event) (trace : List Reply) :
    (resetState k params agenda trace).Inv where
  interval := settled_maxRange
  model := fun hv => nomatch hv
  oneBacklog := .inl rfl
  packer := packer_empty
  outRoom := Nat.zero_le _
  inRoom := Nat.zero_le _
  decoding := fun hi => absurd rfl hi
  value := fun hm => nomatch hm

end HostSide

/-! #### The engine -/

section Engine

variable {s : State}

/-- A bit shifted into an accumulator of `n` bits leaves one of `n + 1` (R252). -/
theorem shiftIn_lt {a : Byte} {n : Nat} (h : a.toNat < 2 ^ n) (b : Bool) :
    (a <<< 1 ||| (BitVec.ofBool b).setWidth 8).toNat < 2 ^ (n + 1) := by
  rw [BitVec.toNat_or]
  refine Nat.or_lt_two_pow ?_ ?_
  · rw [BitVec.toNat_shiftLeft, Nat.shiftLeft_eq, Nat.pow_succ]
    omega
  · have : ((BitVec.ofBool b).setWidth 8).toNat ≤ 1 := by cases b <;> decide
    have := Nat.one_lt_two_pow (Nat.succ_ne_zero n)
    omega

theorem inv_putStep (h : s.Inv) (hp : s.putEnabled = true) : s.putStep.Inv := by
  cases ho : s.obl with
  | nil => simp [State.putEnabled, ho] at hp
  | cons b rest =>
    have hi : s.ibl = [] := h.oneBacklog.resolve_left (by simp [ho])
    by_cases h7 : s.onb = 7
    · have hfull : s.outQ.length ≠ s.params.outDepth := by simpa [State.putEnabled, ho, h7] using hp
      have hroom := h.outRoom
      rw [putStep_full ho h7]
      exact { h with
        model := h.model_of_table rfl rfl rfl rfl
        oneBacklog := .inr hi
        packer := packer_empty
        outRoom := by simp only [List.length_append, List.length_singleton]; omega }
    · rw [putStep_room ho h7]
      exact { h with
        model := h.model_of_table rfl rfl rfl rfl
        oneBacklog := .inr hi
        packer := by
          show _ < 2 ^ (s.onb + 1).val
          rw [onb_succ h7]
          exact shiftIn_lt h.packer b }

/-- A GetStep's effect on the fields the invariant speaks of: the first shift with some bit, and IN no longer than it was (R205, R254). -/
theorem getStep_fields {c : Subtrahend} {rest : List Subtrahend} (hi : s.ibl = c :: rest) :
    ∃ bit icache inb inQ, inQ.length ≤ s.inQ.length ∧
      s.getStep = { s with ibl := rest, value := shiftValue s.value c bit, icache := icache, inb := inb, inQ := inQ } := by
  by_cases h0 : s.inb = 0
  · cases hq : s.inQ with
    | nil => exact ⟨_, _, _, _, by simp [hq], getStep_empty hi h0 hq⟩
    | cons b bs => exact ⟨_, _, _, _, by simp, getStep_refill hi h0 hq⟩
  · exact ⟨_, _, _, _, Nat.le_refl _, getStep_cached hi h0⟩

theorem inv_getStep (h : s.Inv) (hg : s.getEnabled = true) : s.getStep.Inv := by
  cases hi : s.ibl with
  | nil => simp [State.getEnabled, hi] at hg
  | cons c rest =>
    have ho : s.obl = [] := h.oneBacklog.resolve_right (by simp [hi])
    have hdec : s.mode = .dec := h.decoding (by simp [hi])
    have hv := h.value hdec
    rw [hi] at hv
    obtain ⟨bit, icache, inb, inQ, hle, heq⟩ := getStep_fields hi
    rw [heq]
    exact { h with
      model := h.model_of_table rfl rfl rfl rfl
      oneBacklog := .inl ho
      inRoom := Nat.le_trans hle h.inRoom
      decoding := fun _ => hdec
      value := fun _ => hv.2 bit }

theorem inv_engineTurn (h : s.Inv) : s.engineTurn.Inv := by
  unfold State.engineTurn
  split
  · next hp => exact inv_putStep h hp
  · split
    · next hg => exact inv_getStep h hg
    · exact h

end Engine

/-! #### The commands, each when its error check passes -/

section Commands

variable {s : State}

theorem inv_abortEffect (h : s.Inv) (hi : s.ibl = []) : (abortEffect s).Inv :=
  { h with
    interval := settled_maxRange
    model := h.model_of_table rfl rfl rfl rfl
    packer := packer_empty
    outRoom := Nat.zero_le _
    inRoom := Nat.zero_le _
    decoding := fun hne => absurd hi hne
    value := fun hm => nomatch hm }

/-- FT_COMMIT sets MODEL_VALID only for the table of R42. -/
theorem modelOk_commit (h0 : cumulative s.count 256 ≠ 0) (hm : cumulative s.count 256 ≤ Config.maxTotal) :
    State.ModelOk { s with
      start := derivedStarts s.count, total := BitVec.ofNat 40 (cumulative s.count 256), modelValid := true } := by
  have htotal : (BitVec.ofNat 40 (cumulative s.count 256)).toNat = cumulative s.count 256 := by
    rw [BitVec.toNat_ofNat]
    simp only [Config.maxTotal] at hm
    omega
  constructor
  case startZero => exact (derivedStarts_toNat s.count (by omega)).trans (cumulative_zero _)
  case startSucc =>
    intro n hn
    simp only [derivedStarts_toNat s.count (Nat.lt_succ_of_lt hn), derivedStarts_toNat s.count (Nat.succ_lt_succ hn)]
    exact (cumulative_succ s.count hn).symm
  case startLast => exact BitVec.eq_of_toNat_eq ((derivedStarts_toNat s.count (by omega)).trans htotal.symm)
  case totalPos => simp only [htotal]; omega
  case totalMax => simpa only [htotal] using hm

theorem inv_ftCommitEffect (h : s.Inv) : (ftCommitEffect s).Inv := by
  by_cases h0 : cumulative s.count 256 = 0
  · rw [ftCommitEffect_zero h0]
    exact { h with model := fun hv => nomatch hv }
  · by_cases hm : cumulative s.count 256 ≤ Config.maxTotal
    · rw [ftCommitEffect_accepted h0 hm]
      exact { h with model := fun _ => modelOk_commit h0 hm }
    · rw [ftCommitEffect_refused (Nat.lt_of_not_le hm)]
      exact { h with model := fun hv => nomatch hv }

theorem inv_encInitEffect (h : s.Inv) (hi : s.ibl = []) : (encInitEffect s).Inv :=
  { h with
    interval := settled_maxRange
    model := h.model_of_table rfl rfl rfl rfl
    packer := packer_empty
    decoding := fun hne => absurd hi hne
    value := fun hm => nomatch hm }

theorem inv_overflowPending (h : s.Inv) (hi : s.ibl = []) (i : Instr) : (s.overflowPending i).Inv :=
  { h with
    model := h.model_of_table rfl rfl rfl rfl
    decoding := fun hne => absurd hi hne
    value := fun hm => nomatch hm }

theorem inv_encSymEffect (h : s.Inv) (hi : s.ibl = []) (hm : s.mode = .enc) (hv : s.modelValid = true) {sym : Byte}
    (hc : s.countOf sym ≠ 0) : (encSymEffect sym s).Inv := by
  have hmodel := h.model hv
  have ⟨_, hle, _⟩ := narrow_inside hmodel (Nat.pos_of_ne_zero hc) (settled_le h.interval) (total_le_range hmodel h.interval)
  cases hr : renormEnc (s.narrow sym s.low s.high).1 (s.narrow sym s.low s.high).2 s.pending with
  | none =>
    rw [encSymEffect_overflow hr]
    exact inv_overflowPending h hi _
  | some r =>
    rw [encSymEffect_coded hr]
    exact { h with
      interval := renormEnc_settled hle hr
      model := h.model_of_table rfl rfl rfl rfl
      oneBacklog := .inr hi
      value := fun hd => nomatch hm.symm.trans hd }

theorem inv_encFinishEffect (h : s.Inv) (hi : s.ibl = []) : (encFinishEffect s).Inv := by
  by_cases hp : s.pending = Config.maxPending
  · rw [encFinishEffect_overflow hp]
    exact inv_overflowPending h hi _
  · rw [encFinishEffect_done hp]
    exact { h with
      model := h.model_of_table rfl rfl rfl rfl
      oneBacklog := .inr hi
      decoding := fun hne => absurd hi hne
      value := fun hm => nomatch hm }

theorem inv_decInitEffect (h : s.Inv) (ho : s.obl = []) : (decInitEffect s).Inv :=
  { h with
    interval := settled_maxRange
    model := h.model_of_table rfl rfl rfl rfl
    oneBacklog := .inl ho
    decoding := fun _ => rfl
    value := fun _ => valueFits_priming _ _ }

theorem inv_decSymEffect (h : s.Inv) (ho : s.obl = []) (hi : s.ibl = []) (hm : s.mode = .dec) (hv : s.modelValid = true) :
    (decSymEffect s).Inv := by
  have hvalue := h.value hm
  rw [hi] at hvalue
  obtain ⟨hl, hh⟩ := hvalue
  have ⟨_, hl', hh'⟩ := found_interval_holds_value (h.model hv) h.interval hl hh
  exact { h with
    interval := renormDec_settled (BitVec.le_trans hl' hh')
    model := h.model_of_table rfl rfl rfl rfl
    oneBacklog := .inl ho
    decoding := fun _ => hm
    value := fun _ => valueFits_renormDec hl' hh' }

/-- What the error check of ENC_SYM admits (R504, R506, R507). -/
theorem firstError_encSym_none {sym : Byte} (hf : firstError (.encSym sym) s = none) :
    s.mode = .enc ∧ s.modelValid = true ∧ s.countOf sym ≠ 0 := by
  rw [firstError_encSym sym (firstError_none_busy hf)] at hf
  by_cases hm : s.mode = .enc <;> cases hv : s.modelValid <;> simp_all

/-- What the error check of DEC_SYM admits (R504, R506). -/
theorem firstError_decSym_none (hf : firstError .decSym s = none) : s.mode = .dec ∧ s.modelValid = true := by
  rw [firstError_decSym (firstError_none_busy hf)] at hf
  by_cases hm : s.mode = .dec <;> cases hv : s.modelValid <;> simp_all

/-- Every command that passes its error check keeps the invariant. -/
theorem inv_effectOf (h : s.Inv) {i : Instr} (hf : firstError i s = none) : (effectOf i s).Inv := by
  have ⟨ho, hi⟩ := (busy_eq_false s).mp (firstError_none_busy hf)
  cases i with
  | nop => exact h
  | abort => exact inv_abortEffect h hi
  | ftClear => exact inv_count h _
  | ftInc sym => exact inv_count h _
  | ftCommit => exact inv_ftCommitEffect h
  | encInit => exact inv_encInitEffect h hi
  | encSym sym =>
    have ⟨hm, hv, hc⟩ := firstError_encSym_none hf
    exact inv_encSymEffect h hi hm hv hc
  | encFinish => exact inv_encFinishEffect h hi
  | decInit => exact inv_decInitEffect h ho
  | decSym =>
    have ⟨hm, hv⟩ := firstError_decSym_none hf
    exact inv_decSymEffect h ho hi hm hv

end Commands

/-- Settles O33: what each kind of step does (`StepEffect`) keeps the invariant. -/
theorem stepKeepsTheInvariant : Obligations.StepKeepsTheInvariant := by
  intro s t h hstep
  cases stepEffect_of_step hstep with
  | engine rest => exact inv_engineTurn (inv_agenda h rest)
  | read off rest => exact inv_busRead (inv_agenda h rest) off
  | refuse e w rest => exact inv_raise (inv_agenda h rest) e w
  | run i rest _ _ hf => exact inv_effectOf (inv_agenda h rest) hf
  | clearErr v rest => exact inv_errors (inv_agenda h rest) _ _
  | push v rest => exact inv_pushIn (inv_agenda h rest) _
  | setEos v rest => exact inv_eos (inv_agenda h rest) _
  | setCount sym v rest => exact inv_count (inv_agenda h rest) _
  | ignored rest => exact inv_agenda h rest
  | reset rest => exact inv_resetState _ _ _ _

/-- Settles O34: every reset state has the invariant, whatever its free values. -/
theorem resetHasTheInvariant : Obligations.ResetHasTheInvariant := inv_resetState _ _ _ _

end Sys2Proof.Machine
/-! ### Proofs: who writes what -/

namespace Sys2Proof.Machine

open Sys2Proof Sys2Proof.Statements

/-! #### The coder's own registers: written by the engine, the commands and reset only -/

/-- What a step can do to the fields that no host access writes by itself. -/
theorem step_coder_cases {s t : State} (h : step s = .next t) :
    (t = { s with
      outQ := t.outQ, inQ := t.inQ, eos := t.eos, count := t.count, modelValid := t.modelValid, err := t.err, errCmd := t.errCmd
      agenda := t.agenda, trace := t.trace }) ∨
    (∃ rest, s.engineNext ∧ t = { s.engineTurn with agenda := rest }) ∨
    (∃ i rest, s.nextRuns i ∧ t = { effectOf i s with agenda := rest }) ∨
    (∃ rest, s.resetNext ∧ t = { s.applyReset with agenda := rest }) := by
  cases stepEffect_of_step h with
  | engine rest hn => exact .inr (.inl ⟨rest, hn, engineTurn_withAgenda s rest⟩)
  | run i rest hr => exact .inr (.inr (.inl ⟨i, rest, hr, effectOf_agenda i s rest⟩))
  | reset rest hn => exact .inr (.inr (.inr ⟨rest, hn, rfl⟩))
  | read off rest =>
    left
    unfold busRead State.afterRead
    split <;> rfl
  | push v rest =>
    left
    unfold State.pushIn
    split <;> rfl
  | _ => exact .inl rfl

/-- Settles O50: of the commands, five write the interval; the engine and the host's other accesses keep it. -/
theorem writersOfTheInterval : Obligations.WritersOfTheInterval := by
  intro s t h ht
  rcases step_coder_cases h with hk | ⟨rest, hn, rfl⟩ | ⟨i, rest, hi, rfl⟩ | ⟨rest, hr, rfl⟩
  · rw [hk] at ht
    simp at ht
  · simp at ht
  · cases i with
    | encInit => exact .inl hi
    | encSym sym => exact .inr (.inl ⟨sym, hi⟩)
    | decInit => exact .inr (.inr (.inl hi))
    | decSym => exact .inr (.inr (.inr (.inl hi)))
    | abort => exact .inr (.inr (.inr (.inr (.inl hi))))
    | _ => simp [effectOf] at ht
  · exact .inr (.inr (.inr (.inr (.inr hr))))

/-- Without an input backlog the turn is a PutStep or nothing (R205). -/
theorem engineTurn_of_ibl_nil {s : State} (hi : s.ibl = []) : s.engineTurn = s.putStep ∨ s.engineTurn = s := by
  unfold State.engineTurn
  rw [show s.getEnabled = false by simp [State.getEnabled, hi]]
  split
  · exact .inl rfl
  · exact .inr rfl

/-- Settles O51: without an input backlog the engine's turn leaves VALUE. -/
theorem writersOfValue : Obligations.WritersOfValue := by
  intro s t h ht
  rcases step_coder_cases h with hk | ⟨rest, hn, rfl⟩ | ⟨i, rest, hi, rfl⟩ | ⟨rest, hr, rfl⟩
  · rw [hk] at ht
    simp at ht
  · refine .inr (.inl ⟨hn, fun hi => ht ?_⟩)
    rcases engineTurn_of_ibl_nil hi with he | he <;> simp [he]
  · cases i with
    | decInit => exact .inl hi
    | abort => exact .inr (.inr (.inl hi))
    | _ => simp [effectOf] at ht
  · exact .inr (.inr (.inr hr))

/-- Settles O52: of the commands, four write PENDING; the engine and the host's other accesses keep it. -/
theorem writersOfPending : Obligations.WritersOfPending := by
  intro s t h ht
  rcases step_coder_cases h with hk | ⟨rest, hn, rfl⟩ | ⟨i, rest, hi, rfl⟩ | ⟨rest, hr, rfl⟩
  · rw [hk] at ht
    simp at ht
  · simp at ht
  · cases i with
    | encInit => exact .inl hi
    | encSym sym => exact .inr (.inl ⟨sym, hi⟩)
    | encFinish => exact .inr (.inr (.inl hi))
    | abort => exact .inr (.inr (.inr (.inl hi)))
    | _ => simp [effectOf] at ht
  · exact .inr (.inr (.inr (.inr hr)))

/-- Narrow by the formulas of R305 written out. -/
theorem narrow_eq (s : State) (sym : Byte) (low high : Half) :
    s.narrow sym low high = (BitVec.ofNat 16 (narrowLow s sym low high), BitVec.ofNat 16 (narrowHigh s sym low high)) := by
  simp only [State.narrow, narrowLow, narrowHigh, startOf_eq, countOf_eq, rangeOf]

/-- ENC_SYM leaves MODE, or its pending count overflows and MODE becomes NONE (R509). -/
theorem encSymEffect_mode (s : State) (sym : Byte) :
    (encSymEffect sym s).mode = s.mode ∨ (encSymEffect sym s).mode = .none ∧ PendingOverflows (.encSym sym) s := by
  cases hr : renormEnc (s.narrow sym s.low s.high).1 (s.narrow sym s.low s.high).2 s.pending with
  | some r => exact .inl (by rw [encSymEffect_coded hr])
  | none =>
    refine .inr ⟨by rw [encSymEffect_overflow hr]; rfl, .inr ⟨sym, rfl, ?_⟩⟩
    rwa [narrow_eq] at hr

/-- Settles O53, by the command that writes MODE; ENC_SYM does so only on a pending overflow (`encSymEffect_mode`). -/
theorem writersOfMode : Obligations.WritersOfMode := by
  intro s t h ht
  rcases step_coder_cases h with hk | ⟨rest, hn, rfl⟩ | ⟨i, rest, hi, rfl⟩ | ⟨rest, hr, rfl⟩
  · rw [hk] at ht
    simp at ht
  · simp at ht
  · cases i with
    | encInit => exact ⟨fun _ => hi, nofun, nofun⟩
    | decInit => exact ⟨nofun, fun _ => hi, nofun⟩
    | abort => exact ⟨nofun, nofun, fun _ => .inr (.inl hi)⟩
    | encFinish =>
      have hnone : (effectOf .encFinish s).mode = .none := encFinishEffect_mode s
      simp only [hnone]
      exact ⟨nofun, nofun, fun _ => .inr (.inr (.inl hi))⟩
    | encSym sym =>
      rcases encSymEffect_mode s sym with hsame | ⟨hnone, hover⟩
      · exact absurd hsame ht
      · simp only [effectOf, hnone]
        exact ⟨nofun, nofun, fun _ => .inr (.inr (.inr ⟨sym, hi, hover⟩))⟩
    | _ => simp [effectOf] at ht
  · exact ⟨nofun, nofun, fun _ => .inl hr⟩

/-- Settles O55, by the command: DEC_SYM writes both, DEC_INIT and ABORT clear RESULT_VALID. -/
theorem writersOfResult : Obligations.WritersOfResult := by
  intro s t h
  rcases step_coder_cases h with hk | ⟨rest, hn, rfl⟩ | ⟨i, rest, hi, rfl⟩ | ⟨rest, hr, rfl⟩
  · rw [hk]
    simp +contextual
  · simp +contextual
  · cases i with
    | decSym => exact ⟨fun _ => .inl hi, fun _ _ => hi, nofun⟩
    | decInit => exact ⟨fun hne => absurd rfl hne, nofun, fun _ _ => .inl hi⟩
    | abort => exact ⟨fun hne => absurd rfl hne, nofun, fun _ _ => .inr (.inl hi)⟩
    | _ => simp +contextual [effectOf]
  · exact ⟨fun _ => .inr hr, nofun, fun _ _ => .inr (.inr hr)⟩

/-- The turn takes the first entry of one backlog, or none (R205). -/
theorem engineTurn_backlogs (s : State) :
    (s.engineTurn.obl = s.obl ∨ s.engineTurn.obl = s.obl.tail) ∧ (s.engineTurn.ibl = s.ibl ∨ s.engineTurn.ibl = s.ibl.tail) := by
  unfold State.engineTurn
  (repeat' split) <;> simp

/-- Settles O59: four commands fill a backlog, the engine takes one entry (`engineTurn_backlogs`). -/
theorem writersOfTheBacklogs : Obligations.WritersOfTheBacklogs := by
  intro s t h
  rcases step_coder_cases h with hk | ⟨rest, hn, rfl⟩ | ⟨i, rest, hi, rfl⟩ | ⟨rest, hr, rfl⟩
  · rw [hk]
    simp
  · obtain ⟨ho, hi⟩ := engineTurn_backlogs s
    exact ⟨fun hne => .inr (.inr (.inl ⟨hn, ho.resolve_left hne⟩)), fun hne => .inr (.inr (.inl ⟨hn, hi.resolve_left hne⟩))⟩
  · cases i with
    | encSym sym => exact ⟨fun _ => .inl ⟨sym, hi⟩, fun hne => absurd (encSymEffect_ibl sym s) hne⟩
    | encFinish => exact ⟨fun _ => .inr (.inl hi), fun hne => absurd (encFinishEffect_ibl s) hne⟩
    | decInit => exact ⟨fun hne => absurd rfl hne, fun _ => .inl hi⟩
    | decSym => exact ⟨fun hne => absurd rfl hne, fun _ => .inr (.inl hi)⟩
    | _ => simp [effectOf]
  · exact ⟨fun _ => .inr (.inr (.inr hr)), fun _ => .inr (.inr (.inr hr))⟩

end Sys2Proof.Machine
namespace Sys2Proof.Machine

open Sys2Proof Sys2Proof.Statements

/-! #### What every read keeps (R102) -/

@[simp] theorem busRead_modelValid (off : Offset) (s : State) : (busRead off s).modelValid = s.modelValid := busRead_keeps State.modelValid (fun _ _ _ => rfl) off s

@[simp] theorem busRead_count (off : Offset) (s : State) : (busRead off s).count = s.count := busRead_keeps State.count (fun _ _ _ => rfl) off s

@[simp] theorem busRead_inQ (off : Offset) (s : State) : (busRead off s).inQ = s.inQ := busRead_keeps State.inQ (fun _ _ _ => rfl) off s

@[simp] theorem busRead_eos (off : Offset) (s : State) : (busRead off s).eos = s.eos := busRead_keeps State.eos (fun _ _ _ => rfl) off s

@[simp] theorem busRead_err (off : Offset) (s : State) : (busRead off s).err = s.err := busRead_keeps State.err (fun _ _ _ => rfl) off s

@[simp] theorem busRead_errCmd (off : Offset) (s : State) : (busRead off s).errCmd = s.errCmd := busRead_keeps State.errCmd (fun _ _ _ => rfl) off s

/-! #### The table and MODEL_VALID -/

/-- The sum the statements write is the model's (R41). -/
theorem countSum_eq_cumulative (s : State) {n : Nat} (h : n ≤ 256) : countSum s n = cumulative s.count n := by
  induction n with
  | zero => exact (cumulative_zero s.count).symm
  | succ n ih =>
    have hn : n < 256 := h
    rw [cumulative_succ s.count hn, ← ih (Nat.le_of_lt hn), countSum, Finset.sum_range_succ, Vector.getElem?_eq_getElem hn]
    rfl

/-- FT_COMMIT accepts a total in 1..MAX_TOTAL only (R303). -/
theorem ftCommitEffect_modelValid {s : State} (h : (ftCommitEffect s).modelValid = true) :
    1 ≤ countSum s 256 ∧ countSum s 256 ≤ 0x3FFF := by
  rw [countSum_eq_cumulative s (Nat.le_refl _)]
  by_cases h0 : cumulative s.count 256 = 0
  · rw [ftCommitEffect_zero h0] at h
    cases h
  · by_cases hm : cumulative s.count 256 ≤ Config.maxTotal
    · exact ⟨Nat.pos_of_ne_zero h0, hm⟩
    · rw [ftCommitEffect_refused (Nat.lt_of_not_le hm)] at h
      cases h

theorem modelValid_rises {s t : State} (h : step s = .next t) (hs : s.modelValid = false) (ht : t.modelValid = true) :
    s.nextRuns .ftCommit ∧ 1 ≤ countSum s 256 ∧ countSum s 256 ≤ 0x3FFF := by
  cases stepEffect_of_step h with
  | run i rest hi =>
    rw [effectOf_agenda] at ht
    cases i with
    | ftCommit => exact ⟨hi, ftCommitEffect_modelValid ht⟩
    | _ => simp [effectOf, hs] at ht
  | _ => simp [hs] at ht

theorem modelValid_falls {s t : State} (h : step s = .next t) (hs : s.modelValid = true) (ht : t.modelValid = false) :
    s.nextRuns .ftClear ∨ (∃ sym, s.nextRuns (.ftInc sym)) ∨ (∃ sym v rest, s.nextWrite (.count sym) v rest) ∨ s.nextRuns .ftCommit ∨
      s.resetNext := by
  cases stepEffect_of_step h with
  | run i rest hi =>
    cases i with
    | ftClear => exact .inl hi
    | ftInc sym => exact .inr (.inl ⟨sym, hi⟩)
    | ftCommit => exact .inr (.inr (.inr (.inl hi)))
    | _ => simp [effectOf, hs] at ht
  | setCount sym v rest hn => exact .inr (.inr (.inl ⟨sym, v, rest, hn⟩))
  | reset rest hn => exact .inr (.inr (.inr (.inr hn)))
  | _ => simp [hs] at ht

/-- The decoder reads every command's own word back (R154). -/
theorem decode_encode (i : Instr) : decode (encode i) = .ok i := by
  cases i <;> simp [decode, plainCommand, Instr.opcode, Instr.symOperand]

/-- A host write is a step of the bus (R103). -/
theorem step_of_write {s : State} {off : Offset} {v : Word} {rest : List Event} (ha : s.agenda = .host (.write off v) :: rest) :
    step s = busWrite off v { s with agenda := rest } := by
  unfold step
  rw [ha]
  rfl

/-- A command that passes its error check, its word written while the block is idle, runs (R202, R203). -/
theorem step_of_nextRuns {s : State} {i : Instr} (h : s.nextRuns i) (hf : firstError i s = none) :
    ∃ rest, step s = .next (effectOf i { s with agenda := rest }) := by
  obtain ⟨hb, rest, off, hr, ha⟩ := h
  refine ⟨rest, ?_⟩
  rw [step_of_write ha, ← issue_of_none (effectOf i) (s := { s with agenda := rest }) hf, ← exec_eq]
  simp only [busWrite, hr, commandPort, busy_agenda, hb, issueWord, decode_encode, Bool.false_eq_true, if_false]

/-- FT_CLEAR, FT_INC and a write of COUNT always clear MODEL_VALID (R62, R301, R302). -/
theorem tableWriters_clear_modelValid {s t : State} (h : step s = .next t)
    (hw : s.nextRuns .ftClear ∨ (∃ sym, s.nextRuns (.ftInc sym)) ∨ ∃ sym v rest, s.nextWrite (.count sym) v rest) :
    t.modelValid = false := by
  rcases hw with hr | ⟨sym, hr⟩ | ⟨sym, v, rest, off, hr, ha⟩
  · obtain ⟨rest, hs⟩ := step_of_nextRuns hr (firstError_ftClear hr.1)
    cases hs.symm.trans h
    rfl
  · obtain ⟨rest, hs⟩ := step_of_nextRuns hr (firstError_ftInc sym hr.1)
    cases hs.symm.trans h
    rfl
  · rw [step_of_write ha] at h
    simp only [busWrite, hr] at h
    cases h
    rfl

/-- Settles O54: what raises MODEL_VALID, what clears it, and what always clears it. -/
theorem writersOfModelValid : Obligations.WritersOfModelValid := fun _ _ h =>
  ⟨modelValid_rises h, modelValid_falls h, tableWriters_clear_modelValid h⟩

theorem startsAndTotal_writers {s t : State} (h : step s = .next t) (ht : t.start ≠ s.start ∨ t.total ≠ s.total) :
    s.nextRuns .ftCommit ∨ s.resetNext := by
  rcases step_coder_cases h with hk | ⟨rest, hn, rfl⟩ | ⟨i, rest, hi, rfl⟩ | ⟨rest, hr, rfl⟩
  · rw [hk] at ht
    simp at ht
  · simp at ht
  · cases i with
    | ftCommit => exact .inl hi
    | _ => simp [effectOf] at ht
  · exact .inr hr

theorem count_writers {s t : State} (h : step s = .next t) (ht : t.count ≠ s.count) :
    (∃ sym v rest, s.nextWrite (.count sym) v rest) ∨ s.nextRuns .ftClear ∨ (∃ sym, s.nextRuns (.ftInc sym)) ∨ s.resetNext := by
  cases stepEffect_of_step h with
  | run i rest hi =>
    cases i with
    | ftClear => exact .inr (.inl hi)
    | ftInc sym => exact .inr (.inr (.inl ⟨sym, hi⟩))
    | _ => simp [effectOf] at ht
  | setCount sym v rest hn => exact .inl ⟨sym, v, rest, hn⟩
  | reset rest hn => exact .inr (.inr (.inr hn))
  | _ => simp at ht

/-- Settles O56: what FT_COMMIT derives, and the counts. -/
theorem writersOfTheTable : Obligations.WritersOfTheTable := fun _ _ h => ⟨startsAndTotal_writers h, count_writers h⟩

/-! #### The streams -/

theorem packer_writers {s t : State} (h : step s = .next t) (ht : t.oacc ≠ s.oacc ∨ t.onb ≠ s.onb) :
    s.engineNext ∨ s.nextRuns .encInit ∨ s.nextRuns .abort ∨ s.resetNext := by
  rcases step_coder_cases h with hk | ⟨rest, hn, rfl⟩ | ⟨i, rest, hi, rfl⟩ | ⟨rest, hr, rfl⟩
  · rw [hk] at ht
    simp at ht
  · exact .inl hn
  · cases i with
    | encInit => exact .inr (.inl hi)
    | abort => exact .inr (.inr (.inl hi))
    | _ => simp [effectOf] at ht
  · exact .inr (.inr (.inr hr))

theorem unpacker_writers {s t : State} (h : step s = .next t) (ht : t.icache ≠ s.icache ∨ t.inb ≠ s.inb) :
    s.engineNext ∨ s.nextRuns .decInit ∨ s.nextRuns .abort ∨ s.resetNext := by
  rcases step_coder_cases h with hk | ⟨rest, hn, rfl⟩ | ⟨i, rest, hi, rfl⟩ | ⟨rest, hr, rfl⟩
  · rw [hk] at ht
    simp at ht
  · exact .inl hn
  · cases i with
    | decInit => exact .inr (.inl hi)
    | abort => exact .inr (.inr (.inl hi))
    | _ => simp [effectOf] at ht
  · exact .inr (.inr (.inr hr))

/-- Without an output backlog the turn leaves OUT. -/
theorem engineTurn_outQ {s : State} (ho : s.obl = []) : s.engineTurn.outQ = s.outQ := by
  rw [engineTurn_get ho]
  split <;> simp

/-- Without an input backlog the turn leaves IN. -/
theorem engineTurn_inQ {s : State} (hi : s.ibl = []) : s.engineTurn.inQ = s.inQ := by
  rcases engineTurn_of_ibl_nil hi with he | he <;> simp [he]

/-- Only a read of OUT_DATA pops (R105). -/
theorem busRead_of_ne {off : Offset} (h : registerAt off ≠ .outData) (s : State) :
    busRead off s = s.observe off (s.regValue (registerAt off)) := by
  unfold busRead State.afterRead
  rw [if_neg h]

theorem outQ_writers {s t : State} (h : step s = .next t) (ht : t.outQ ≠ s.outQ) :
    (s.engineNext ∧ s.obl ≠ []) ∨ (∃ off rest, s.nextRead .outData off rest) ∨ s.nextRuns .abort ∨ s.resetNext := by
  cases stepEffect_of_step h with
  | engine rest hn => exact .inl ⟨hn, fun ho => ht (engineTurn_outQ ho)⟩
  | read off rest hn =>
    by_cases hr : registerAt off = .outData
    · exact .inr (.inl ⟨off, rest, hr, hn⟩)
    · simp [busRead_of_ne hr] at ht
  | run i rest hi =>
    cases i with
    | abort => exact .inr (.inr (.inl hi))
    | _ => simp [effectOf] at ht
  | reset rest hn => exact .inr (.inr (.inr hn))
  | _ => simp at ht

theorem inQ_writers {s t : State} (h : step s = .next t) (ht : t.inQ ≠ s.inQ) :
    (s.engineNext ∧ s.ibl ≠ []) ∨ (∃ v rest, s.nextWrite .inData v rest) ∨ s.nextRuns .abort ∨ s.resetNext := by
  cases stepEffect_of_step h with
  | engine rest hn => exact .inl ⟨hn, fun hi => ht (engineTurn_inQ hi)⟩
  | push v rest hn => exact .inr (.inl ⟨v, rest, hn⟩)
  | run i rest hi =>
    cases i with
    | abort => exact .inr (.inr (.inl hi))
    | _ => simp [effectOf] at ht
  | reset rest hn => exact .inr (.inr (.inr hn))
  | _ => simp at ht

theorem eos_writers {s t : State} (h : step s = .next t) (ht : t.eos ≠ s.eos) :
    (∃ v rest, s.nextWrite .inCtrl v rest) ∨ s.nextRuns .abort ∨ s.resetNext := by
  cases stepEffect_of_step h with
  | setEos v rest hn => exact .inl ⟨v, rest, hn⟩
  | run i rest hi =>
    cases i with
    | abort => exact .inr (.inl hi)
    | _ => simp [effectOf] at ht
  | reset rest hn => exact .inr (.inr hn)
  | _ => simp at ht

/-- Settles O57, field by field. -/
theorem writersOfTheStreams : Obligations.WritersOfTheStreams := fun _ _ h =>
  ⟨packer_writers h, unpacker_writers h, outQ_writers h, inQ_writers h, eos_writers h⟩

/-! #### ERR and ERR_CMD -/

theorem err_bit_lt {e : Err} (h : e ≠ .inOverflow) : e.bit < 7 := by
  cases e <;> simp [Err.bit] at h ⊢

/-- A write of ERR clears the bits written as 1 (R53). -/
theorem clearErrBits_getLsbD (err : Byte) (v : Word) {n : Nat} (h : n < 8) :
    (clearErrBits err v).getLsbD n = (err.getLsbD n && !v.getLsbD n) := by
  simp [clearErrBits, h]

/-- A command that passes its error check leaves the errors, or raises one of step 6 of R511 with its own word. -/
theorem effectOf_errors (i : Instr) (s : State) :
    ((effectOf i s).err = s.err ∧ (effectOf i s).errCmd = s.errCmd) ∨
      ∃ e, e ≠ .inOverflow ∧ (effectOf i s).err = setErrBit s.err e ∧ (effectOf i s).errCmd = encode i := by
  cases i with
  | ftCommit =>
    simp only [effectOf]
    by_cases h0 : cumulative s.count 256 = 0
    · exact .inl (by rw [ftCommitEffect_zero h0]; exact ⟨rfl, rfl⟩)
    · by_cases hm : cumulative s.count 256 ≤ Config.maxTotal
      · exact .inl (by rw [ftCommitEffect_accepted h0 hm]; exact ⟨rfl, rfl⟩)
      · exact .inr ⟨.totalRange, nofun, by rw [ftCommitEffect_refused (Nat.lt_of_not_le hm)]; exact ⟨rfl, rfl⟩⟩
  | encSym sym =>
    simp only [effectOf]
    cases hr : renormEnc (s.narrow sym s.low s.high).1 (s.narrow sym s.low s.high).2 s.pending with
    | none => exact .inr ⟨.pendingOvf, nofun, by rw [encSymEffect_overflow hr]; exact ⟨rfl, rfl⟩⟩
    | some r => exact .inl (by rw [encSymEffect_coded hr]; exact ⟨rfl, rfl⟩)
  | encFinish =>
    simp only [effectOf]
    by_cases hp : s.pending = Config.maxPending
    · exact .inr ⟨.pendingOvf, nofun, by rw [encFinishEffect_overflow hp]; exact ⟨rfl, rfl⟩⟩
    · exact .inl (by rw [encFinishEffect_done hp]; exact ⟨rfl, rfl⟩)
  | _ => exact .inl ⟨rfl, rfl⟩

/-- Everything a step can do to ERR and ERR_CMD. -/
theorem step_errors {s t : State} (h : step s = .next t) :
    (t.err = s.err ∧ t.errCmd = s.errCmd) ∨
    (∃ e w rest, s.nextCommand w rest ∧ e ≠ .inOverflow ∧ t.err = setErrBit s.err e ∧ t.errCmd = w) ∨
    (∃ v rest, s.nextWrite .err v rest ∧ t.err = clearErrBits s.err v ∧ t.errCmd = s.errCmd) ∨
    (∃ v rest, s.nextWrite .inData v rest ∧ t.err = setErrBit s.err .inOverflow ∧ t.errCmd = s.errCmd) ∨
    (s.resetNext ∧ t.err = 0 ∧ t.errCmd = 0) := by
  cases stepEffect_of_step h with
  | engine rest => exact .inl ⟨engineTurn_err _, engineTurn_errCmd _⟩
  | read off rest => exact .inl ⟨busRead_err off _, busRead_errCmd off _⟩
  | refuse e w rest hn he => exact .inr (.inl ⟨e, w, rest, hn, he, rfl, if_neg he⟩)
  | run i rest _ hn =>
    rcases effectOf_errors i { s with agenda := rest } with hsame | ⟨e, he, herr, hcmd⟩
    · exact .inl hsame
    · exact .inr (.inl ⟨e, encode i, rest, hn, he, herr, hcmd⟩)
  | clearErr v rest hn => exact .inr (.inr (.inl ⟨v, rest, hn, rfl, rfl⟩))
  | push v rest hn =>
    unfold State.pushIn
    split
    · exact .inl ⟨rfl, rfl⟩
    · exact .inr (.inr (.inr (.inl ⟨v, rest, hn, rfl, rfl⟩)))
  | reset rest hn => exact .inr (.inr (.inr (.inr ⟨hn, rfl, rfl⟩)))
  | _ => exact .inl ⟨rfl, rfl⟩

/-- Settles O58: `step_errors` read bit by bit. -/
theorem errorBitsAreSticky : Obligations.ErrorBitsAreSticky := by
  intro s t h
  rcases step_errors h with ⟨he, hc⟩ | ⟨e, w, rest, hn, hne, he, hc⟩ | ⟨v, rest, hn, he, hc⟩ | ⟨v, rest, hn, he, hc⟩ | ⟨hr, he, hc⟩
  · simp +contextual [he, hc]
  · refine ⟨fun n hlt hs ht => ?_, fun n hlt hs ht => .inl ⟨?_, w, rest, hn, hc⟩, fun _ => .inr ⟨w, rest, hn, hc, ?_⟩⟩
    · simp [he, setErrBit_getLsbD _ _ n hlt, hs] at ht
    · have hbit : n = e.bit := by simpa [he, setErrBit_getLsbD _ _ n hlt, hs] using ht
      exact hbit ▸ err_bit_lt hne
    · rw [he]
      exact setErrBit_ne_zero s.err e
  · refine ⟨fun n hlt hs ht => .inr ⟨v, rest, hn, ?_⟩, fun n hlt hs ht => ?_, fun hne => absurd hc hne⟩
    · simpa [he, clearErrBits_getLsbD _ _ hlt, hs] using ht
    · simp [he, clearErrBits_getLsbD _ _ hlt, hs] at ht
  · refine ⟨fun n hlt hs ht => ?_, fun n hlt hs ht => .inr ⟨?_, v, rest, hn⟩, fun hne => absurd hc hne⟩
    · simp [he, setErrBit_getLsbD _ _ n hlt, hs] at ht
    · simpa [he, setErrBit_getLsbD _ _ n hlt, hs, Err.bit] using ht
  · exact ⟨fun _ _ _ _ => .inl hr, fun n _ _ ht => by simp [he] at ht, fun _ => .inl ⟨hr, hc⟩⟩

end Sys2Proof.Machine
/-! ### Proofs: the register space -/

namespace Sys2Proof.Machine

open Sys2Proof Sys2Proof.Statements

/-! #### The register map (R49, R101) -/

theorem lowRegister_reserved {index : Nat} (h : 18 ≤ index) : lowRegister index = .reserved := by
  unfold lowRegister
  split
  case h_19 => rfl
  all_goals omega

theorem registerOfIndex_count (sym : Byte) : registerOfIndex (0x100 + sym.toNat) = .count sym := by
  have := sym.isLt
  rw [registerOfIndex, if_pos (by omega), Nat.add_sub_cancel_left, BitVec.ofNat_toNat, BitVec.setWidth_eq]

theorem registerOfIndex_start (n : Fin 257) : registerOfIndex (0x200 + n.val) = .start n := by
  have := n.isLt
  rw [registerOfIndex, if_neg (by omega), dif_pos (by omega)]
  exact congrArg Register.start (Fin.ext (Nat.add_sub_cancel_left ..))

theorem registerOfIndex_reserved {index : Nat} (h : (18 ≤ index ∧ index < 0x100) ∨ 0x301 ≤ index) : registerOfIndex index = .reserved := by
  rw [registerOfIndex, if_neg (by omega), dif_neg (by omega), lowRegister_reserved (by omega)]

/-- The register at byte offset `4 * index`. -/
theorem registerAt_ofNat {index : Nat} (h : index < 0x400) : registerAt (BitVec.ofNat 12 (4 * index)) = registerOfIndex index := by
  rw [registerAt, BitVec.toNat_ofNat]
  congr 1
  omega

/-- Offset bits 1:0 are ignored (R101). -/
theorem registerAt_aligned (off : Offset) : registerAt (off &&& 0xFFC) = registerAt off := by
  have hindex : (off &&& 0xFFC).toNat / 4 = off.toNat / 4 := by
    have hlt := off.isLt
    have hmask : (0xFFC : Offset).toNat >>> 2 = 2 ^ 10 - 1 := rfl
    rw [BitVec.toNat_and, ← Nat.shiftRight_eq_div_pow _ 2, ← Nat.shiftRight_eq_div_pow _ 2, Nat.shiftRight_and_distrib, hmask,
      Nat.and_two_pow_sub_one_eq_mod, Nat.shiftRight_eq_div_pow]
    omega
  rw [registerAt, registerAt, hindex]

/-- Settles O41: each window by its index, what no index names by `registerOfIndex_reserved`. -/
theorem registerMap : Obligations.RegisterMap := by
  refine ⟨by decide, fun sym => ?_, fun n => ?_, fun off => (registerAt_aligned off).symm, fun off h => registerOfIndex_reserved (by omega)⟩
  · have := sym.isLt
    rw [← registerOfIndex_count, ← registerAt_ofNat (by omega), Nat.mul_add]
  · have := n.isLt
    rw [← registerOfIndex_start, ← registerAt_ofNat (by omega), Nat.mul_add]

/-! #### Words put together from fields -/

theorem toNat_append_add {m n : Nat} (x : BitVec m) (y : BitVec n) : (x ++ y).toNat = 2 ^ n * x.toNat + y.toNat := by
  rw [BitVec.toNat_append, ← Nat.shiftLeft_add_eq_or_of_lt y.isLt, Nat.shiftLeft_eq, Nat.mul_comm]

theorem getLsbD_of_digit {w : Word} {n : Nat} {b : Bool} (h : w.toNat / 2 ^ n % 2 = b.toNat) : w.getLsbD n = b := by
  rw [BitVec.getLsbD, Nat.testBit_eq_decide_div_mod_eq, h]
  cases b <;> rfl

/-- STATUS as a number (R52). -/
theorem statusWord_toNat (s : State) : s.statusWord.toNat =
    s.busy.toNat + 2 * s.mode.bits.toNat + 8 * s.modelValid.toNat + 16 * s.resultValid.toNat + 32 * s.inWait.toNat
      + 64 * s.outWait.toNat + 128 * s.errAny.toNat + 256 * s.eos.toNat := by
  simp only [State.statusWord, toNat_append_add, BitVec.toNat_ofBool, BitVec.ofNat_eq_ofNat, BitVec.toNat_ofNat]
  omega

/-- The fields of STATUS, bit by bit (R52). -/
theorem statusWord_fields (s : State) :
    s.statusWord.getLsbD 0 = s.busy ∧ s.statusWord.extractLsb' 1 2 = s.mode.bits ∧ s.statusWord.getLsbD 3 = s.modelValid ∧
      s.statusWord.getLsbD 4 = s.resultValid ∧ s.statusWord.getLsbD 5 = s.inWait ∧ s.statusWord.getLsbD 6 = s.outWait ∧
      s.statusWord.getLsbD 7 = s.errAny ∧ s.statusWord.getLsbD 8 = s.eos ∧ s.statusWord.toNat < 2 ^ 9 := by
  have hw := statusWord_toNat s
  have hmode := s.mode.bits.isLt
  have hbusy := s.busy.toNat_lt
  have hmodel := s.modelValid.toNat_lt
  have hresult := s.resultValid.toNat_lt
  have hin := s.inWait.toNat_lt
  have hout := s.outWait.toNat_lt
  have herr := s.errAny.toNat_lt
  have heos := s.eos.toNat_lt
  refine ⟨getLsbD_of_digit ?_, BitVec.eq_of_toNat_eq ?_, getLsbD_of_digit ?_, getLsbD_of_digit ?_, getLsbD_of_digit ?_,
    getLsbD_of_digit ?_, getLsbD_of_digit ?_, getLsbD_of_digit ?_, ?_⟩
  case refine_2 =>
    rw [BitVec.extractLsb'_toNat, Nat.shiftRight_eq_div_pow]
    omega
  all_goals omega

theorem inWait_iff (s : State) : s.inWait = true ↔ s.ibl ≠ [] ∧ s.inb = 0 ∧ s.inQ.length = 0 ∧ s.eos = false := by
  simp [State.inWait, and_assoc]

theorem outWait_iff (s : State) : s.outWait = true ↔ s.obl ≠ [] ∧ s.onb = 7 ∧ s.outQ.length = s.params.outDepth := by
  simp [State.outWait, and_assoc]

/-! #### Writes that are not commands (R103) -/

/-- A write of any register but the five that take one is ignored (R64). -/
theorem busWrite_ignored {off : Offset} (v : Word) (s : State) (hcmd : registerAt off ≠ .cmd) (herr : registerAt off ≠ .err)
    (hin : registerAt off ≠ .inData) (hctrl : registerAt off ≠ .inCtrl) (hcount : ∀ sym, registerAt off ≠ .count sym) :
    busWrite off v s = .next s := by
  obtain ⟨t, ht⟩ := perform_next (.host (.write off v)) s
  rcases busWrite_cases ht with ⟨h, _⟩ | ⟨h, _⟩ | ⟨h, _⟩ | ⟨h, _⟩ | ⟨sym, h, _⟩ | ⟨_, _, _, _, _, rfl⟩
  · exact absurd h hcmd
  · exact absurd h herr
  · exact absurd h hin
  · exact absurd h hctrl
  · exact absurd h (hcount sym)
  · exact ht

/-- Settles O42: STATUS bit by bit (`statusWord_fields`), each computed bit by its definition. -/
theorem statusFields : Obligations.StatusFields := by
  intro s
  obtain ⟨hbusy, hmode, hmodel, hresult, hin, hout, herr, heos, hlt⟩ := statusWord_fields s
  refine ⟨?_, ?_, hmodel, hresult, ?_, ?_, ?_, heos, hlt, rfl, fun off v hr => ?_⟩
  · rw [hbusy]
    exact busy_eq_true s
  · rw [hmode]
    cases s.mode <;> rfl
  · rw [hin]
    exact inWait_iff s
  · rw [hout]
    exact outWait_iff s
  · rw [herr]
    exact bne_iff_ne
  · exact busWrite_ignored v s (by simp [hr]) (by simp [hr]) (by simp [hr]) (by simp [hr]) (by simp [hr])

/-! #### What reads return -/

theorem totalHalves_toNat (s : State) : (s.regValue .totalLo).toNat + 2 ^ 32 * (s.regValue .totalHi).toNat = s.total.toNat := by
  have hlt := s.total.isLt
  simp only [State.regValue, BitVec.toNat_setWidth, BitVec.extractLsb'_toNat, Nat.shiftRight_eq_div_pow]
  omega

theorem inCtrl_toNat (s : State) : (s.regValue .inCtrl).toNat = if s.eos then 1 else 0 := by
  cases h : s.eos <;> simp [State.regValue, h]

theorem cfg0_toNat (s : State) : (s.regValue .cfg0).toNat = s.params.outDepth + 2 ^ 16 * s.params.inDepth := by
  have hout := outDepth_le s.params
  have hin := inDepth_le s.params
  simp only [State.regValue, State.cfg0Word, toNat_append_add, BitVec.toNat_ofNat]
  omega

theorem fifoStat_toNat {s : State} (hout : s.outQ.length < 2 ^ 16) (hin : s.inQ.length < 2 ^ 16) :
    (s.regValue .fifoStat).toNat = s.outQ.length + 2 ^ 16 * s.inQ.length := by
  simp only [State.regValue, State.fifoStatWord, toNat_append_add, BitVec.toNat_ofNat]
  omega

theorem bitstate_toNat (s : State) :
    (s.regValue .bitstate).toNat = s.oacc.toNat + 2 ^ 8 * s.onb.val + 2 ^ 16 * s.icache.toNat + 2 ^ 24 * s.inb.val := by
  have honb := s.onb.isLt
  have hinb := s.inb.isLt
  simp only [State.regValue, State.bitstateWord, toNat_append_add, BitVec.ofNat_eq_ofNat, BitVec.toNat_ofNat]
  omega

theorem regValue_count (s : State) {n : Nat} (h : n < 256) : s.regValue (.count (BitVec.ofNat 8 n)) = s.count[n] := by
  simp only [State.regValue, BitVec.toNat_ofNat, Nat.mod_eq_of_lt h]

theorem start_toNat (s : State) (n : Fin 257) : (s.regValue (.start n)).toNat = (s.start[n.val]).toNat % 2 ^ 32 :=
  BitVec.extractLsb'_toNat ..

/-- Settles O43, register by register. (`Machine.readValues` is the model's word for the values a trace holds.) -/
theorem Registers.readValues : Obligations.ReadValues := fun s =>
  ⟨⟨rfl, rfl, rfl, rfl⟩, ⟨BitVec.toNat_setWidth_of_le (by decide), rfl⟩,
    ⟨BitVec.toNat_setWidth_of_le (by decide), BitVec.toNat_setWidth_of_le (by decide), BitVec.toNat_setWidth_of_le (by decide), rfl,
      BitVec.toNat_setWidth_of_le (by decide)⟩,
    totalHalves_toNat s, inCtrl_toNat s, cfg0_toNat s, fifoStat_toNat, bitstate_toNat s, fun _ h => regValue_count s h, start_toNat s⟩

/-- A host read is a step of the bus (R102). -/
theorem step_of_read {s : State} {off : Offset} {rest : List Event} (ha : s.agenda = .host (.read off) :: rest) :
    step s = .next (busRead off { s with agenda := rest }) := by
  unfold step
  rw [ha]
  rfl

/-- A read of OUT_DATA pops (R58, R259). -/
theorem step_of_outData_read {s : State} {off : Offset} {rest : List Event} (hn : s.nextRead .outData off rest) :
    step s = .next { s with agenda := rest, outQ := s.outQ.tail, trace := s.trace ++ [⟨off, s.outDataWord⟩] } := by
  obtain ⟨hr, ha⟩ := hn
  rw [step_of_read ha, busRead, State.afterRead, hr, if_pos rfl]
  rfl

/-- Settles O45: OUT_DATA's word by whether OUT is empty. -/
theorem outDataPopsTheOldestByte : Obligations.OutDataPopsTheOldestByte := by
  intro s off rest hn
  rw [step_of_outData_read hn]
  refine ⟨fun b bytes hq => ?_, fun hq => ?_⟩
  · have hword : s.outDataWord = 0x00000100 ||| b.setWidth 32 := by
      rw [State.outDataWord, hq]
      rfl
    rw [hword, hq]
    rfl
  · have hword : s.outDataWord = 0x00000000 := by rw [State.outDataWord, hq]
    rw [hword, hq]
    rfl

/-- Settles O47: the write leaves `clearErrBits`. -/
theorem errIsWriteOneToClear : Obligations.ErrIsWriteOneToClear := fun s off v hr =>
  ⟨BitVec.toNat_setWidth_of_le (by decide), clearErrBits s.err v, by simp only [busWrite, hr], fun _ h => clearErrBits_getLsbD s.err v h⟩

/-- Settles O48: IN_CTRL and COUNT by their arms of `busWrite`, every other register by `busWrite_ignored`. -/
theorem otherRegisterWrites : Obligations.OtherRegisterWrites := by
  intro s off v
  refine ⟨inCtrl_toNat s, fun hr => by simp only [busWrite, hr], fun sym => ?_, fun sym hr => ?_, fun hcmd herr hin hctrl hcount =>
    busWrite_ignored v s hcmd herr hin hctrl hcount, ⟨rfl, rfl, rfl⟩, fun r hr => if_neg hr⟩
  · rw [Vector.getElem?_eq_getElem sym.isLt]
    rfl
  · refine ⟨s.count.set sym.toNat v sym.isLt, ?_, fun n h hne => ?_, by simp only [busWrite, hr]; rfl⟩
    · simp
    · exact Vector.getElem_set_ne sym.isLt h hne.symm

end Sys2Proof.Machine

/-! ### Proofs: a host read and its only side effect -/
namespace Sys2Proof.Machine

open Sys2Proof Sys2Proof.Statements

/-- A read of any register but OUT_DATA only adds the reply (R102, R105). -/
theorem step_of_plain_read {s : State} {r : Register} {off : Offset} {rest : List Event} (hn : s.nextRead r off rest) (hne : r ≠ .outData) :
    step s = .next { s with agenda := rest, trace := s.trace ++ [⟨off, s.regValue r⟩] } := by
  obtain ⟨rfl, ha⟩ := hn
  rw [step_of_read ha, busRead_withAgenda, busRead_of_ne hne]
  rfl

/-- Settles O44: OUT_DATA pops (`step_of_outData_read`), every other register is a plain read. -/
theorem readsHaveNoEffectButThePop : Obligations.ReadsHaveNoEffectButThePop := by
  intro s r off rest hn
  refine ⟨step_of_plain_read hn, fun hr => ?_⟩
  subst hr
  exact step_of_outData_read hn

end Sys2Proof.Machine

/-! ### Proofs: the encoding of commands -/

namespace Sys2Proof.Machine

open Sys2Proof Sys2Proof.Statements

/-- Settles O1: eighteen fixed words, each decoded. -/
theorem listedWordsDecode : Obligations.ListedWordsDecode := by
  unfold Obligations.ListedWordsDecode
  decide

/-- Settles O2: no bit of a word that decodes is dropped (`decode_ok_word`), and the decoder reads back what the encoder writes. -/
theorem decodeInvertsEncode : Obligations.DecodeInvertsEncode := by
  intro w i
  constructor
  · exact decode_ok_word
  · rintro rfl
    exact decode_encode i

/-! #### Rows of the opcode map (R153) -/

/-- Every command's word is of its command's row: `Laws.TableRow`, over the ten commands. -/
theorem encode_row (i : Instr) : i.row ∈ opcodeMap ∧ encode i &&& i.row.mask = i.row.matchWord := by
  have hrow : Laws.TableRow.Statement i := by
    cases i with
    | nop => exact Laws.TableRow.nop
    | abort => exact Laws.TableRow.abort
    | ftClear => exact Laws.TableRow.ftClear
    | ftInc sym => exact Laws.TableRow.ftInc sym
    | ftCommit => exact Laws.TableRow.ftCommit
    | encInit => exact Laws.TableRow.encInit
    | encSym sym => exact Laws.TableRow.encSym sym
    | encFinish => exact Laws.TableRow.encFinish
    | decInit => exact Laws.TableRow.decInit
    | decSym => exact Laws.TableRow.decSym
  exact ⟨hrow.1, hrow.2.1⟩

/-- A row whose mask keeps every bit has one word. -/
theorem eq_of_fullMask {w m : Word} (h : w &&& 0xFFFFFFFF = m) : w = m := BitVec.and_allOnes.symm.trans h

/-- A row whose mask drops SYM fixes OPC and RSV, and leaves SYM to the word. -/
theorem eq_of_symbolMask {w m : Word} {opc : Byte} (h : w &&& 0xFFFFFF00 = m) (hopc : opcField m = opc) (hrsv : rsvField m = 0) :
    w = opc ++ (0 : Half) ++ symField w := by
  have hw : opcField w = opc := by
    calc opcField w = opcField w &&& opcField 0xFFFFFF00 := BitVec.and_allOnes.symm
      _ = opcField (w &&& 0xFFFFFF00) := BitVec.extractLsb'_and.symm
      _ = opc := by rw [h, hopc]
  have hr : rsvField w = 0 := by
    calc rsvField w = rsvField w &&& rsvField 0xFFFFFF00 := BitVec.and_allOnes.symm
      _ = rsvField (w &&& 0xFFFFFF00) := BitVec.extractLsb'_and.symm
      _ = 0 := by rw [h, hrsv]
  rw [← hw, ← hr]
  exact word_eq_fields w

/-- A word of a row is the word of a command of that row. -/
theorem encode_of_row {w : Word} {r : OpcodeRow} (hr : r ∈ opcodeMap) (h : w &&& r.mask = r.matchWord) :
    ∃ i, w = encode i ∧ i.row = r := by
  simp only [opcodeMap, List.mem_cons, List.not_mem_nil, or_false] at hr
  rcases hr with rfl | rfl | rfl | rfl | rfl | rfl | rfl | rfl | rfl | rfl
  · exact ⟨.nop, eq_of_fullMask h, rfl⟩
  · exact ⟨.abort, eq_of_fullMask h, rfl⟩
  · exact ⟨.ftClear, eq_of_fullMask h, rfl⟩
  · exact ⟨.ftInc (symField w), eq_of_symbolMask h rfl rfl, rfl⟩
  · exact ⟨.ftCommit, eq_of_fullMask h, rfl⟩
  · exact ⟨.encInit, eq_of_fullMask h, rfl⟩
  · exact ⟨.encSym (symField w), eq_of_symbolMask h rfl rfl, rfl⟩
  · exact ⟨.encFinish, eq_of_fullMask h, rfl⟩
  · exact ⟨.decInit, eq_of_fullMask h, rfl⟩
  · exact ⟨.decSym, eq_of_fullMask h, rfl⟩

/-- A word of a row decodes to a command of that row. -/
theorem decode_of_row {w : Word} {r : OpcodeRow} (hr : r ∈ opcodeMap) (h : w &&& r.mask = r.matchWord) :
    ∃ i, decode w = .ok i ∧ i.row = r := by
  obtain ⟨i, rfl, hi⟩ := encode_of_row hr h
  exact ⟨i, decode_encode i, hi⟩

/-- Settles O3: a word of two rows decodes to a command of both, and a command has one row. -/
theorem oneOpcodeRowPerWord : Obligations.OneOpcodeRowPerWord := by
  refine ⟨fun w i h => ?_, fun w r => decode_of_row, fun w r q hr hq hwr hwq => ?_⟩
  · obtain rfl := decode_ok_word h
    exact encode_row i
  · obtain ⟨i, hi, rfl⟩ := decode_of_row hr hwr
    obtain ⟨j, hj, rfl⟩ := decode_of_row hq hwq
    cases hi.symm.trans hj
    rfl

/-! #### Illegal words (R155) -/

/-- The OPCs of the commands without an operand (R153). -/
def plainOpcodes : List Byte := [0x00, 0x01, 0x10, 0x12, 0x20, 0x22, 0x30, 0x31]

/-- The ten OPCs (R153). -/
def opcodes : List Byte := [0x00, 0x01, 0x10, 0x11, 0x12, 0x20, 0x21, 0x22, 0x30, 0x31]

theorem mem_opcodes_iff {opc : Byte} : opc ∈ opcodes ↔ opc = 0x11 ∨ opc = 0x21 ∨ opc ∈ plainOpcodes := by
  simp only [opcodes, plainOpcodes, List.mem_cons, List.not_mem_nil, or_false]
  tauto

theorem opcode_mem_opcodes (i : Instr) : i.opcode ∈ opcodes := by cases i <;> simp [opcodes, Instr.opcode]

/-- Only FT_INC and ENC_SYM have an operand (R152). -/
theorem symOperand_of_plainOpcode {i : Instr} (h : i.opcode ∈ plainOpcodes) : i.symOperand = 0 := by
  cases i with
  | ftInc sym => exact absurd h (by simp [Instr.opcode, plainOpcodes])
  | encSym sym => exact absurd h (by simp [Instr.opcode, plainOpcodes])
  | _ => rfl

theorem plainCommand_eq_none_iff {opc : Byte} : plainCommand opc = none ↔ opc ∉ plainOpcodes := by
  simp [plainCommand, plainOpcodes, ite_eq_iff]

/-- What the decoder's refusals say: the word is of one of the three kinds (R155). -/
theorem illegal_of_decode_error {w : Word} {why : Illegal} (h : decode w = .error why) :
    opcField w ∉ opcodes ∨ rsvField w ≠ 0 ∨ (opcField w ∈ plainOpcodes ∧ symField w ≠ 0) := by
  unfold decode at h
  split at h
  case isTrue hrsv => exact .inr (.inl hrsv)
  split at h
  case isTrue => cases h
  case isFalse hinc =>
  split at h
  case isTrue => cases h
  case isFalse hsym =>
  split at h
  case h_1 c hc =>
    split at h
    · cases h
    · have hmem : opcField w ∈ plainOpcodes := by
        by_contra hn
        rw [plainCommand_eq_none_iff.mpr hn] at hc
        cases hc
      exact .inr (.inr ⟨hmem, ‹_›⟩)
  case h_2 hc => exact .inl (by rw [mem_opcodes_iff]; exact not_or.mpr ⟨hinc, not_or.mpr ⟨hsym, plainCommand_eq_none_iff.mp hc⟩⟩)

/-- A word decodes to no command exactly when it is of one of the three kinds (R155). -/
theorem decode_error_iff (w : Word) : (∃ why, decode w = .error why) ↔
    opcField w ∉ opcodes ∨ rsvField w ≠ 0 ∨ (opcField w ∈ plainOpcodes ∧ symField w ≠ 0) := by
  constructor
  · rintro ⟨why, h⟩
    exact illegal_of_decode_error h
  · intro hbad
    cases hd : decode w with
    | error why => exact ⟨why, rfl⟩
    | ok i =>
      obtain ⟨hrsv, hopc, hsym⟩ := decode_ok_fields hd
      rw [hopc, hsym] at hbad
      rcases hbad with hnot | hne | ⟨hplain, hne⟩
      · exact absurd (opcode_mem_opcodes i) hnot
      · exact absurd hrsv hne
      · exact absurd (symOperand_of_plainOpcode hplain) hne

/-- A write of CMD goes to the command port (R103). -/
theorem busWrite_cmd {off : Offset} (hr : registerAt off = .cmd) (w : Word) (s : State) : busWrite off w s = commandPort w s := by
  simp only [busWrite, hr]

/-- Any word written while BUSY is dropped (R202, R503). -/
theorem commandPort_busy {s : State} (hb : s.busy = true) (w : Word) : commandPort w s = .next (refused s 0x02 w) := by
  rw [commandPort, if_pos hb, raise_eq (by decide)]
  rfl

/-- A word that decodes to no command is refused when the block is idle (R203, R502). -/
theorem commandPort_illegal {s : State} (hb : s.busy = false) {w : Word} {why : Illegal} (hd : decode w = .error why) :
    commandPort w s = .next (refused s 0x01 w) := by
  simp only [commandPort, hb, Bool.false_eq_true, if_false, issueWord, hd, raise_eq (e := .illegalCmd) (by decide)]
  rfl

/-- Settles O4: the kinds of illegal word by `decode_error_iff`, and the command port's two answers to one. -/
theorem illegalWordsAreRefused : Obligations.IllegalWordsAreRefused := by
  refine ⟨decode_error_iff, fun s off w hr ⟨why, hd⟩ => ?_⟩
  rw [busWrite_cmd hr]
  exact ⟨fun hb => commandPort_illegal hb hd, fun hb => commandPort_busy hb w⟩

end Sys2Proof.Machine

/-! ### Proofs: the engine's steps, its two holds, and the backlogs it works off -/

namespace Sys2Proof.Machine

open Sys2Proof Sys2Proof.Statements

/-! #### PutStep and the packed bits (R205, R252) -/

theorem packedBits_of_onb_zero {s : State} (h : s.onb = 0) : s.packedBits = bitsOf s.outQ := by
  simp [State.packedBits, h, lowBits]

/-- A PutStep appends its bit to the packed bits (R252). -/
theorem putStep_packedBits {s : State} {b : Bool} {rest : List Bool} (ho : s.obl = b :: rest) :
    s.putStep.packedBits = s.packedBits ++ [b] := by
  by_cases h7 : s.onb = 7
  · have hbyte := lowBits_shiftIn s.oacc b (n := 7) (by decide)
    rw [putStep_full ho h7, packedBits_of_onb_zero rfl, State.packedBits, bitsOf_append, bitsOf_cons, hbyte, h7]
    simp
  · have hbits := lowBits_shiftIn s.oacc b s.onb.isLt
    rw [putStep_room ho h7, State.packedBits, State.packedBits, onb_succ h7, hbits, List.append_assoc]

/-- A PutStep writes OBL, the packer and OUT only (R205). -/
theorem putStep_frame {s : State} {b : Bool} {rest : List Bool} (ho : s.obl = b :: rest) :
    s.putStep = { s with obl := rest, oacc := s.putStep.oacc, onb := s.putStep.onb, outQ := s.putStep.outQ } := by
  by_cases h7 : s.onb = 7
  · rw [putStep_full ho h7]
  · rw [putStep_room ho h7]

/-- Settles O35: an enabled PutStep is the turn (`engineTurn_put`), by whether it fills the byte. -/
theorem putStepPacksTheNextBit : Obligations.PutStepPacksTheNextBit := by
  intro s b rest ho hroom
  rw [engineTurn_put ho hroom]
  refine ⟨by rw [putStep_obl, ho, List.tail_cons], putStep_packedBits ho, putStep_frame ho, fun h7 => ?_, fun h7 => ?_⟩
  · rw [putStep_full ho h7]
    exact ⟨rfl, rfl, List.length_append⟩
  · rw [putStep_room ho h7]
    exact ⟨onb_succ h7, rfl⟩

/-! #### The two holds (R206) -/

/-- Without an output backlog the only hold is the input hold. -/
theorem held_of_obl_nil {s : State} (ho : s.obl = []) : s.held = s.inWait := by
  cases hi : s.ibl <;>
    simp [State.held, State.busy, State.engineEnabled, State.putEnabled, State.getEnabled, State.inWait, ho, hi, bne]

/-- Without an input backlog the only hold is the output hold. -/
theorem held_of_ibl_nil {s : State} (hi : s.ibl = []) : s.held = s.outWait := by
  cases ho : s.obl <;>
    simp [State.held, State.busy, State.engineEnabled, State.putEnabled, State.getEnabled, State.outWait, ho, hi]

theorem held_iff {s : State} (h : s.obl = [] ∨ s.ibl = []) : s.held = true ↔ s.outWait = true ∨ s.inWait = true := by
  rcases h with ho | hi
  · have hout : s.outWait = false := by simp [State.outWait, ho]
    simp [held_of_obl_nil ho, hout]
  · have hin : s.inWait = false := by simp [State.inWait, hi]
    simp [held_of_ibl_nil hi, hin]

/-- The turn of a held engine changes nothing (R206). -/
theorem engineTurn_of_held {s : State} (h : s.held = true) : s.engineTurn = s := by
  have hnone : s.putEnabled = false ∧ s.getEnabled = false := by
    simp only [State.held, State.engineEnabled, Bool.and_eq_true, Bool.not_eq_true', Bool.or_eq_false_iff] at h
    exact h.2
  simp [State.engineTurn, hnone]

/-- Settles O37: each hold by the backlog it stands in. -/
theorem heldExactlyInTheTwoWaits : Obligations.HeldExactlyInTheTwoWaits := fun _ h => ⟨held_iff h, engineTurn_of_held⟩

theorem busy_of_held {s : State} (h : s.held = true) : s.busy = true := (Bool.and_eq_true_iff.mp h).1

/-- What can end an output hold (R206, R550). -/
theorem step_keeps_outWait {s t : State} (h : step s = .next t) (hh : s.held = true) (hw : s.outWait = true) :
    t.outWait = true ∨ s.resetNext ∨ ∃ off rest, s.nextRead .outData off rest := by
  cases stepEffect_of_step h with
  | engine rest =>
    rw [engineTurn_withAgenda, engineTurn_of_held hh]
    exact .inl hw
  | read off rest hn =>
    by_cases hr : registerAt off = .outData
    · exact .inr (.inr ⟨off, rest, hr, hn⟩)
    · rw [busRead_of_ne hr]
      exact .inl hw
  | run i rest hi => exact absurd (hi.1.symm.trans (busy_of_held hh)) nofun
  | push v rest =>
    unfold State.pushIn
    split <;> exact .inl hw
  | reset rest hn => exact .inr (.inl hn)
  | _ => exact .inl hw

/-- What can end an input hold (R206, R550). -/
theorem step_keeps_inWait {s t : State} (h : step s = .next t) (hh : s.held = true) (hw : s.inWait = true) :
    t.inWait = true ∨ s.resetNext ∨ (∃ v rest, s.nextWrite .inData v rest) ∨
      ∃ v rest, s.nextWrite .inCtrl v rest ∧ v.getLsbD 0 = true := by
  cases stepEffect_of_step h with
  | engine rest =>
    rw [engineTurn_withAgenda, engineTurn_of_held hh]
    exact .inl hw
  | read off rest =>
    rw [busRead_keeps State.inWait fun _ _ _ => rfl]
    exact .inl hw
  | run i rest hi => exact absurd (hi.1.symm.trans (busy_of_held hh)) nofun
  | push v rest hn => exact .inr (.inr (.inl ⟨v, rest, hn⟩))
  | setEos v rest hn =>
    cases hv : v.getLsbD 0 with
    | true => exact .inr (.inr (.inr ⟨v, rest, hn, hv⟩))
    | false =>
      obtain ⟨hi, hb, hq, _⟩ := (inWait_iff s).mp hw
      exact .inl ((inWait_iff _).mpr ⟨hi, hb, hq, rfl⟩)
  | reset rest hn => exact .inr (.inl hn)
  | _ => exact .inl hw

theorem hold_lifted {s t : State} (hinv : s.Inv) (hh : s.held = true) (h : step s = .next t) (ht : t.held = false) :
    s.resetNext ∨
    (s.outWait = true ∧ ∃ off rest, s.nextRead .outData off rest) ∨
    (s.inWait = true ∧ ∃ v rest, s.nextWrite .inData v rest) ∨
    (s.inWait = true ∧ ∃ v rest, s.nextWrite .inCtrl v rest ∧ v.getLsbD 0 = true) := by
  have hnot : ¬ (t.outWait = true ∨ t.inWait = true) := by
    rw [← held_iff (stepKeepsTheInvariant s t hinv h).oneBacklog, ht]
    nofun
  rcases (held_iff hinv.oneBacklog).mp hh with hw | hw
  · rcases step_keeps_outWait h hh hw with hkept | hr | hread
    · exact absurd (.inl hkept) hnot
    · exact .inl hr
    · exact .inr (.inl ⟨hw, hread⟩)
  · rcases step_keeps_inWait h hh hw with hkept | hr | hdata | hctrl
    · exact absurd (.inr hkept) hnot
    · exact .inl hr
    · exact .inr (.inr (.inl ⟨hw, hdata⟩))
    · exact .inr (.inr (.inr ⟨hw, hctrl⟩))

theorem putEnabled_iff (s : State) : s.putEnabled = true ↔ s.obl ≠ [] ∧ ¬ (s.onb = 7 ∧ s.outQ.length = s.params.outDepth) := by
  simp [State.putEnabled, imp_iff_not_or]

theorem getEnabled_iff (s : State) : s.getEnabled = true ↔ s.ibl ≠ [] ∧ (s.unreadBits ≠ [] ∨ s.eos = true) := by
  rw [Ne, Ne, unreadBits_nil]
  simp [State.getEnabled, imp_iff_not_or]

theorem engineEnabled_of_put {s : State} (h : s.putEnabled = true) : s.engineEnabled = true := Bool.or_eq_true_iff.mpr (.inl h)

theorem engineEnabled_of_get {s : State} (h : s.getEnabled = true) : s.engineEnabled = true := Bool.or_eq_true_iff.mpr (.inr h)

/-- The pop makes room in OUT (R206). -/
theorem pop_lifts_outWait {s t : State} {off : Offset} {rest : List Event} (h : step s = .next t) (hw : s.outWait = true)
    (hn : s.nextRead .outData off rest) : t.engineEnabled = true := by
  obtain ⟨ho, _, hlen⟩ := (outWait_iff s).mp hw
  cases (step_of_outData_read hn).symm.trans h
  refine engineEnabled_of_put ((putEnabled_iff _).mpr ⟨ho, fun hfull => ?_⟩)
  have hdepth := outDepth_pos s.params
  have htail : s.outQ.tail.length = s.params.outDepth := hfull.2
  rw [List.length_tail] at htail
  omega

/-- IN is empty at an input hold, so the push is taken (R206, R260). -/
theorem push_lifts_inWait {s t : State} {v : Word} {rest : List Event} (h : step s = .next t) (hw : s.inWait = true)
    (hn : s.nextWrite .inData v rest) : t.engineEnabled = true := by
  obtain ⟨hi, _, hq, _⟩ := (inWait_iff s).mp hw
  obtain ⟨off, hr, ha⟩ := hn
  have hroom : s.inQ.length < s.params.inDepth := hq ▸ inDepth_pos s.params
  rw [step_of_write ha] at h
  simp only [busWrite, hr] at h
  cases h
  rw [pushIn_room _ (s := { s with agenda := rest }) hroom]
  refine engineEnabled_of_get ((getEnabled_iff _).mpr ⟨hi, .inl fun hnil => ?_⟩)
  simpa using (unreadBits_nil.mp hnil).2

/-- Past the end of the input GetStep is enabled once EOS is set (R206, R255). -/
theorem eos_lifts_inWait {s t : State} {v : Word} {rest : List Event} (h : step s = .next t) (hw : s.inWait = true)
    (hn : s.nextWrite .inCtrl v rest) (hv : v.getLsbD 0 = true) : t.engineEnabled = true := by
  obtain ⟨hi, _, _, _⟩ := (inWait_iff s).mp hw
  obtain ⟨off, hr, ha⟩ := hn
  rw [step_of_write ha] at h
  simp only [busWrite, hr] at h
  cases h
  exact engineEnabled_of_get ((getEnabled_iff _).mpr ⟨hi, .inr hv⟩)

/-- Settles O38: what ends a hold (`hold_lifted`), and what each of the three host steps at its hold enables. -/
theorem onlyTheListedStepsLiftAHold : Obligations.OnlyTheListedStepsLiftAHold :=
  ⟨fun _ _ hinv hh h ht => hold_lifted hinv hh h ht, fun _ _ _ h =>
    ⟨fun hw ⟨_, _, hn⟩ => pop_lifts_outWait h hw hn, fun hw ⟨_, _, hn⟩ => push_lifts_inWait h hw hn,
      fun hw ⟨_, _, hn, hv⟩ => eos_lifts_inWait h hw hn hv⟩⟩

/-! #### An output backlog (R207, R208) -/

/-- With room for the bytes that fill up, the first PutStep of a backlog is enabled. -/
theorem put_free_of_room {s : State} {n : Nat} (hroom : s.outQ.length + (s.onb.val + (n + 1)) / 8 ≤ s.params.outDepth) :
    ¬ (s.onb = 7 ∧ s.outQ.length = s.params.outDepth) := by
  rintro ⟨h7, hlen⟩
  have honb : s.onb.val = 7 := congrArg Fin.val h7
  omega

/-- A PutStep leaves room for the bytes that the rest of the backlog fills up. -/
theorem putStep_room_rest {s : State} {b : Bool} {rest : List Bool} (ho : s.obl = b :: rest)
    (hroom : s.outQ.length + (s.onb.val + (rest.length + 1)) / 8 ≤ s.params.outDepth) :
    s.putStep.outQ.length + (s.putStep.onb.val + rest.length) / 8 ≤ s.params.outDepth := by
  by_cases h7 : s.onb = 7
  · have honb : s.onb.val = 7 := congrArg Fin.val h7
    rw [putStep_full ho h7]
    simp only [List.length_append, List.length_singleton, Fin.val_zero]
    omega
  · rw [putStep_room ho h7]
    dsimp only
    rw [onb_succ h7]
    omega

/-- Settles O39, by induction on OBL: each turn is the PutStep of its first bit. -/
theorem outputBacklogIsPackedInOrder : Obligations.OutputBacklogIsPackedInOrder := by
  intro s
  generalize hn : s.obl = bits
  induction bits generalizing s with
  | nil =>
    intro _ hi _
    exact ⟨s, rfl, (busy_eq_false s).mpr ⟨hn, hi⟩, (List.append_nil _).symm, by rw [← hn]⟩
  | cons b rest ih =>
    intro ha hi hroom
    have hturn : s.engineTurn = s.putStep := engineTurn_put hn (put_free_of_room hroom)
    obtain ⟨t, hrun, hbusy, hbits, ht⟩ := ih s.putStep (by rw [putStep_obl, hn, List.tail_cons]) (by rw [putStep_agenda, ha])
      (by rw [putStep_ibl, hi]) (by rw [putStep_params]; exact putStep_room_rest hn hroom)
    refine ⟨t, (run_turn rest.length s ha).trans (hturn ▸ hrun), hbusy, ?_, ?_⟩
    · rw [hbits, putStep_packedBits hn, List.append_assoc, List.singleton_append]
    · rw [putStep_frame hn] at ht
      exact ht

/-! #### GetStep and the unread bits (R205, R254, R255, R402) -/

/-- A cached bit is the first unread one. -/
theorem lowBits_pos (b : Byte) {n : Nat} (h : 0 < n) : lowBits b n = b.getLsbD (n - 1) :: lowBits b (n - 1) := by
  cases n with
  | zero => exact absurd h (Nat.lt_irrefl 0)
  | succ n => rfl

/-- A GetStep shifts in the first unread bit, or 0 past the end, and takes it; it writes IBL, VALUE, the unpacker and IN only. -/
theorem getStep_takes_bit {s : State} {c : Subtrahend} {rest : List Subtrahend} (hi : s.ibl = c :: rest) :
    s.getStep.unreadBits = s.unreadBits.tail ∧
      s.getStep =
        { s with
          ibl := rest, value := shiftValue s.value c (s.unreadBits.headD false)
          icache := s.getStep.icache, inb := s.getStep.inb, inQ := s.getStep.inQ } := by
  by_cases h0 : s.inb = 0
  · cases hq : s.inQ with
    | nil =>
      rw [getStep_empty hi h0 hq, unreadBits_nil.mpr ⟨h0, hq⟩]
      exact ⟨unreadBits_nil.mpr ⟨h0, hq⟩, rfl⟩
    | cons b bytes =>
      have hbits : s.unreadBits = b.getLsbD 7 :: (lowBits b 7 ++ bitsOf bytes) := by
        rw [State.unreadBits, h0, hq, bitsOf_cons]
        rfl
      rw [getStep_refill hi h0 hq, hbits]
      exact ⟨rfl, rfl⟩
  · have hbits : s.unreadBits = s.icache.getLsbD (s.inb.val - 1) :: (lowBits s.icache (s.inb.val - 1) ++ bitsOf s.inQ) := by
      rw [State.unreadBits, lowBits_pos s.icache (Nat.pos_of_ne_zero fun h => h0 (Fin.ext h)), List.cons_append]
    rw [getStep_cached hi h0, hbits]
    exact ⟨rfl, rfl⟩

/-! #### An input backlog (R207, R208) -/

/-- An input backlog worked off in order, with any supply of zeros past the end of the input that is long enough for it. -/
theorem inputBacklog_run (subs : List Subtrahend) (s : State) (pad : Nat) (hi : s.ibl = subs) (ha : s.agenda = []) (ho : s.obl = [])
    (hsupply : subs.length ≤ s.unreadBits.length ∨ s.eos = true) (hpad : subs.length ≤ pad) :
    ∃ t, Host.Core.run core subs.length s = .next t ∧ t.busy = false ∧ t.unreadBits = s.unreadBits.drop subs.length ∧
      t = { s with
        ibl := [], icache := t.icache, inb := t.inb, inQ := t.inQ
        value := shiftAll s.value (subs.zip (s.unreadBits ++ List.replicate pad false)) } := by
  induction subs generalizing s pad with
  | nil => exact ⟨s, rfl, (busy_eq_false s).mpr ⟨ho, hi⟩, rfl, by rw [List.zip_nil_left, shiftAll, ← hi]⟩
  | cons c rest ih =>
    have hget : s.getEnabled = true := by
      refine (getEnabled_iff s).mpr ⟨by simp [hi], hsupply.imp_left fun hle hnil => ?_⟩
      simp [hnil] at hle
    have hturn : s.engineTurn = s.getStep := by rw [engineTurn_get ho, if_pos hget]
    obtain ⟨hunread, hframe⟩ := getStep_takes_bit hi
    -- the shifts are the first one and those of the rest, whose zeros are one fewer when the first bit was already past the end
    obtain ⟨pad', hpad', hshift⟩ : ∃ pad', rest.length ≤ pad' ∧
        (c :: rest).zip (s.unreadBits ++ List.replicate pad false) =
          (c, s.unreadBits.headD false) :: rest.zip (s.unreadBits.tail ++ List.replicate pad' false) := by
      cases hu : s.unreadBits with
      | nil =>
        cases pad with
        | zero => exact absurd hpad (Nat.not_succ_le_zero _)
        | succ pad => exact ⟨pad, Nat.le_of_succ_le_succ hpad, rfl⟩
      | cons bit bits => exact ⟨pad, Nat.le_of_succ_le hpad, rfl⟩
    have hsupply' : rest.length ≤ s.getStep.unreadBits.length ∨ s.getStep.eos = true := by
      rw [hunread, List.length_tail, getStep_eos]
      exact hsupply.imp_left Nat.le_sub_one_of_lt
    obtain ⟨t, hrun, hbusy, hbits, ht⟩ := ih s.getStep pad' (by rw [getStep_ibl, hi, List.tail_cons]) (by rw [getStep_agenda, ha])
      (by rw [getStep_obl, ho]) hsupply' hpad'
    refine ⟨t, (run_turn rest.length s ha).trans (hturn ▸ hrun), hbusy, ?_, ?_⟩
    · rw [hbits, hunread, List.length_cons, List.drop_tail]
    · rw [hunread, hframe] at ht
      rw [hshift]
      exact ht

/-- Settles O40: the backlog's own length of zeros is supply enough (`inputBacklog_run`). -/
theorem inputBacklogIsShiftedInOrder : Obligations.InputBacklogIsShiftedInOrder := fun s ha ho hsupply =>
  inputBacklog_run s.ibl s s.ibl.length rfl ha ho hsupply (Nat.le_refl _)

end Sys2Proof.Machine

/-! ### Proofs: what a step runs, and the control commands -/

namespace Sys2Proof.Machine

open Sys2Proof Sys2Proof.Statements

/-! #### A command as a meaning (R203, R511) -/

/-- A command that finds no error is its issue function. -/
theorem exec_of_none {i : Instr} {s : State} (h : firstError i s = none) : exec i s = .next (effectOf i s) := by
  rw [exec_eq, issue_of_none _ h]

/-- A command whose error check answers `e` is refused with it (R512). -/
theorem exec_of_some {i : Instr} {s : State} {e : Err} (h : firstError i s = some e) : exec i s = .next (s.raise e (encode i)) := by
  rw [exec_eq, issue_of_some _ h]

/-- Every command is refused with CMD_BUSY while BUSY (R503). -/
theorem exec_busy {s : State} (hb : s.busy = true) (i : Instr) : exec i s = .next (refused s 0x02 (encode i)) := by
  rw [exec_of_some (firstError_of_busy i hb), raise_eq (by decide)]
  rfl

/-- The command port with a command's word is that command's meaning: while BUSY both refuse it with CMD_BUSY (R202, R511; log 10). -/
theorem commandPort_encode (i : Instr) (s : State) : commandPort (encode i) s = exec i s := by
  cases hb : s.busy with
  | true => rw [commandPort_busy hb, exec_busy hb]
  | false => simp only [commandPort, hb, Bool.false_eq_true, if_false, issueWord, decode_encode]

theorem step_of_command {s : State} {w : Word} {i : Instr} {rest : List Event} (hn : s.nextCommand w rest) (hd : decode w = .ok i) :
    step s = exec i { s with agenda := rest } := by
  obtain ⟨off, hr, ha⟩ := hn
  rw [step_of_write ha, busWrite_cmd hr, decode_ok_word hd, commandPort_encode]

theorem step_of_agenda_nil {s : State} (ha : s.agenda = []) : step s = .next s.engineTurn := by
  unfold step
  rw [ha]

theorem step_of_agenda_cons {s : State} {e : Event} {rest : List Event} (ha : s.agenda = e :: rest) :
    step s = perform e { s with agenda := rest } := by
  unfold step
  rw [ha]

/-- Settles O5: a command's word by `commandPort_encode`, every other event by its arm of `perform`. -/
theorem stepRunsTheDecodedCommand : Obligations.StepRunsTheDecodedCommand :=
  ⟨fun _ _ _ _ => step_of_command, fun _ => step_of_agenda_nil, fun _ _ => step_of_agenda_cons, fun _ _ _ => step_of_read,
    fun _ _ _ _ => step_of_write, fun _ _ => step_of_agenda_cons⟩

/-! #### The words of a command without an operand (R154, R155) -/

/-- A word with a plain command's OPC, and neither RSV nor SYM set, is that command's word. -/
theorem eq_encode_of_plainOpcode {i : Instr} {v : Word} (hplain : i.opcode ∈ plainOpcodes) (hopc : opcField v = i.opcode)
    (hrsv : rsvField v = 0) (hsym : symField v = 0) : v = encode i := by
  rw [word_eq_fields v, hopc, hrsv, hsym, encode, symOperand_of_plainOpcode hplain]

theorem onlyWord_of_plainOpcode {i : Instr} (hplain : i.opcode ∈ plainOpcodes) : OnlyWord (encode i) i := by
  refine ⟨decode_encode i, fun v hopc hne s off hr hb => ?_⟩
  rw [opcField_encode] at hopc
  obtain ⟨why, hd⟩ : ∃ why, decode v = .error why := by
    rw [decode_error_iff, hopc]
    by_contra hlegal
    obtain ⟨_, hrsv, hsym⟩ := by simpa only [not_or, not_and, not_not] using hlegal
    exact hne (eq_encode_of_plainOpcode hplain hopc hrsv (hsym hplain))
  rw [busWrite_cmd hr]
  exact commandPort_illegal hb hd

/-- Settles O10: NOP finds no error when idle, and its issue function is empty. -/
theorem nopChangesNothing : Obligations.NopChangesNothing :=
  ⟨onlyWord_of_plainOpcode (i := .nop) (by decide), fun _ hb => exec_of_none (firstError_nop hb), fun _ hb => exec_busy hb .nop⟩

/-- Settles O11: ABORT finds no error when idle, and its issue function is `abortEffect`. -/
theorem abortEmptiesTheStreams : Obligations.AbortEmptiesTheStreams :=
  ⟨onlyWord_of_plainOpcode (i := .abort) (by decide), fun _ hb => exec_of_none (firstError_abort hb), fun _ hb => exec_busy hb .abort⟩

end Sys2Proof.Machine

/-! ### Proofs: the bit stream -/

namespace Sys2Proof.Machine

open Sys2Proof

/-! #### A push into IN (R103, R260) -/

/-- A write of IN_DATA is the host's push of its bits 7:0 (R260). -/
theorem busWrite_inData {off : Offset} (hr : registerAt off = .inData) (v : Word) (s : State) :
    busWrite off v s = .next (s.pushIn (v.extractLsb' 0 8)) := by
  rw [← BitVec.setWidth_eq_extractLsb' (by decide)]
  simp only [busWrite, hr]

/-- Settles O46: the push, by whether IN has room. -/
theorem inDataPushesOrOverflows : Obligations.InDataPushesOrOverflows := by
  intro s off v hr
  rw [busWrite_inData hr]
  exact ⟨fun hroom => congrArg _ (pushIn_room _ hroom), fun hfull => congrArg _ (pushIn_full _ hfull)⟩

/-! #### The padding of the last byte (R253, R364) -/

/-- ENC_FINISH while idle, in the encoder's MODE and with PENDING below its maximum: its coded bits, then the padding (R364). -/
theorem exec_encFinish {s : State} (hb : s.busy = false) (hm : s.mode = .enc) (hp : s.pending ≠ Config.maxPending) :
    exec .encFinish s = .next
      { s with
        obl := finishBits s.low s.pending ++ padBits ((s.onb.val + (finishBits s.low s.pending).length) % 8)
        pending := 0, mode := .none } := by
  have hnone : firstError .encFinish s = none := by rw [firstError_encFinish hb, if_neg (not_not_intro hm)]
  rw [exec_of_none hnone, effectOf, encFinishEffect_done hp]

/-- `pad = (8 - k) mod 8` for the bits `k` that are left over from the whole bytes of `n` bits completes the last byte (R253). -/
theorem add_pad_mod_eight (n : Nat) : (n + (8 - n % 8) % 8) % 8 = 0 := by
  omega

/-- Settles O19: the coded bits are PENDING + 2 (`finishBits_length`), and the padding completes the byte (`add_pad_mod_eight`). -/
theorem finishFillsTheLastByte : Obligations.FinishFillsTheLastByte := by
  intro s hb hm hp
  have hcoded := finishBits_length s.low s.pending
  refine ⟨_, _, exec_encFinish hb hm hp, ?_, Nat.mod_lt _ (by decide), ?_, List.drop_left' hcoded⟩
  · rw [List.length_append, padBits, List.length_replicate, ← Nat.add_assoc]
    exact add_pad_mod_eight _
  · rw [List.length_append, padBits, List.length_replicate, hcoded]

/-! #### The next unread bit (R254, R255, R402) -/

theorem shiftValue_eq (v : Half) (c : Subtrahend) (bit : Bool) :
    shiftValue v c bit = ((v - c.val) <<< 1) ||| (if bit then 1 else 0) := by
  cases bit <;> rfl

theorem shiftValue_false (v : Half) (c : Subtrahend) : shiftValue v c false = (v - c.val) <<< 1 := BitVec.or_zero

/-- Past the end of the input a GetStep shifts in 0 and leaves the unpacker as it is (R255). -/
theorem getStep_past_end {s : State} {c : Subtrahend} {rest : List Subtrahend} (hi : s.ibl = c :: rest) (hu : s.unreadBits = []) :
    s.getStep = { s with ibl := rest, value := (s.value - c.val) <<< 1 } := by
  obtain ⟨hinb, hin⟩ := unreadBits_nil.mp hu
  rw [getStep_empty hi hinb hin, shiftValue_false]

/-- Settles O36: whether the turn is a GetStep (`getEnabled_iff`), and what that GetStep shifts in. -/
theorem getStepShiftsInTheNextBit : Obligations.GetStepShiftsInTheNextBit := by
  intro s c rest ho hi
  have hturn : s.unreadBits ≠ [] ∨ s.eos = true → s.engineTurn = s.getStep := fun h => by
    rw [engineTurn_get ho, if_pos ((getEnabled_iff s).mpr ⟨by simp [hi], h⟩)]
  refine ⟨fun bit bits hu => ?_, fun hu he => ?_, fun hu he => ?_⟩
  · obtain ⟨hunread, hframe⟩ := getStep_takes_bit hi
    rw [hu] at hunread hframe
    rw [hturn (.inl (by simp [hu])), ← shiftValue_eq]
    exact ⟨hunread, hframe⟩
  · rw [hturn (.inr he), getStep_past_end hi hu]
  · have hoff : ¬ s.getEnabled = true := by simp [getEnabled_iff, hu, he]
    rw [engineTurn_get ho, if_neg hoff]

end Sys2Proof.Machine

/-! ### Proofs: the frequency table commands -/

namespace Sys2Proof.Machine

open Sys2Proof Sys2Proof.Statements

/-! #### The words of a command with an operand (R154, R155) -/

/-- A word with RSV set is illegal, whatever its OPC (R155). -/
theorem raisesIllegal_of_rsv {v : Word} (hrsv : rsvField v ≠ 0) : RaisesIllegal v := by
  intro s off hr hb
  obtain ⟨why, hd⟩ := (decode_error_iff v).mpr (.inr (.inl hrsv))
  rw [busWrite_cmd hr, commandPort_illegal hb hd]

theorem ftIncWords : SymbolWords 0x11 .ftInc := ⟨fun sym => decode_encode (.ftInc sym), fun _ _ => raisesIllegal_of_rsv⟩

/-! #### A state without a model (R506) -/

theorem exec_noModel {i : Instr} {s : State} (h : firstError i s = some .noModel) : exec i s = .next (refused s 0x08 (encode i)) := by
  rw [exec_of_some h, raise_eq (by decide)]
  rfl

/-- Each coder command finds NO_MODEL first, in the MODE it needs. -/
theorem codersRefused_of_noModel {s : State} (hb : s.busy = false) (hv : s.modelValid = false) : CodersRefused s := by
  refine ⟨exec_noModel ?_, exec_noModel ?_, fun hm sym => ?_, fun hm => exec_noModel ?_⟩
  · simp [firstError_encInit hb, hv]
  · simp [firstError_decInit hb, hv]
  · rw [← encode_encSym]
    exact exec_noModel (by simp [firstError_encSym sym hb, hm, hv])
  · simp [firstError_decSym hb, hm, hv]

/-! #### FT_CLEAR and FT_INC (R301, R302) -/

theorem exec_ftClear {s : State} (hb : s.busy = false) :
    exec .ftClear s = .next { s with count := Vector.replicate 256 0, modelValid := false } :=
  exec_of_none (firstError_ftClear hb)

/-- Settles O12: the cleared table, and the coder commands by `codersRefused_of_noModel`. -/
theorem ftClearZeroesEveryCount : Obligations.FtClearZeroesEveryCount :=
  ⟨onlyWord_of_plainOpcode (i := .ftClear) (by decide),
    fun _ hb => ⟨_, fun _ h => Vector.getElem_replicate h, exec_ftClear hb, codersRefused_of_noModel hb rfl⟩,
    fun _ hb => exec_busy hb .ftClear⟩

theorem saturatingInc_toNat (c : Word) : (saturatingInc c).toNat = min (c.toNat + 1) 0xFFFFFFFF := by
  have hlt := c.isLt
  unfold saturatingInc
  by_cases hc : c = Config.maxCount
  · rw [if_pos hc, hc]
    rfl
  · have hne : c.toNat ≠ 0xFFFFFFFF := fun h => hc (BitVec.eq_of_toNat_eq h)
    rw [if_neg hc, BitVec.toNat_add, show (1 : Word).toNat = 1 from rfl]
    omega

/-- COUNT with one more of a symbol (R302). -/
def countOne (count : Vector Word 256) (sym : Byte) : Vector Word 256 :=
  count.set sym.toNat (saturatingInc (count[sym.toNat]'sym.isLt)) sym.isLt

theorem countOne_same (count : Vector Word 256) (sym : Byte) :
    ((countOne count sym)[sym.toNat]'sym.isLt).toNat = min ((count[sym.toNat]'sym.isLt).toNat + 1) 0xFFFFFFFF := by
  rw [countOne, Vector.getElem_set_self, saturatingInc_toNat]

theorem countOne_other (count : Vector Word 256) {sym : Byte} {n : Nat} (h : n < 256) (hne : n ≠ sym.toNat) :
    (countOne count sym)[n] = count[n] :=
  Vector.getElem_set_ne _ _ hne.symm

theorem exec_ftInc {s : State} (hb : s.busy = false) (sym : Byte) :
    exec (.ftInc sym) s = .next { s with count := countOne s.count sym, modelValid := false } :=
  exec_of_none (firstError_ftInc sym hb)

/-! #### FT_COMMIT (R303) -/

/-- The sum of all counts fits in TOTAL (R303, D12). -/
theorem cumulativeTotal_toNat (count : Vector Word 256) : (BitVec.ofNat 40 (cumulative count 256)).toNat = cumulative count 256 := by
  have := cumulative_le count (Nat.le_refl 256)
  rw [BitVec.toNat_ofNat]
  omega

theorem exec_ftCommit {s : State} (hb : s.busy = false) : exec .ftCommit s = .next (ftCommitEffect s) :=
  exec_of_none (firstError_ftCommit hb)

/-- No count exceeds the sum of all. -/
theorem count_le_cumulative (count : Vector Word 256) {n : Nat} (h : n < 256) : (count[n]).toNat ≤ cumulative count 256 := by
  have := cumulative_mono count (Nat.succ_le_of_lt h) (Nat.le_refl 256)
  rw [cumulative_succ count h] at this
  omega

/-- Settles O13: a saturated count alone is above MAX_TOTAL (`count_le_cumulative`), so FT_COMMIT refuses the table. -/
theorem ftIncCountsOneSymbol : Obligations.FtIncCountsOneSymbol := by
  refine ⟨ftIncWords, fun s sym hb => ⟨_, ?_, fun n h => countOne_other s.count h, exec_ftInc hb sym⟩, fun s sym hb => ?_,
    fun s sym hb hsat => ⟨_, exec_ftCommit hb, ?_⟩⟩
  · simp only [Vector.getElem?_eq_getElem sym.isLt, Option.getD_some]
    exact countOne_same s.count sym
  · rw [← encode_ftInc]
    exact exec_busy hb _
  · have hcount : (s.count[sym.toNat]'sym.isLt).toNat = 0xFFFFFFFF := by
      rw [Vector.getElem?_eq_getElem sym.isLt] at hsat
      exact congrArg BitVec.toNat hsat
    have hle := count_le_cumulative s.count sym.isLt
    have hmax : Config.maxTotal < cumulative s.count 256 := by
      simp only [Config.maxTotal]
      omega
    rw [ftCommitEffect_refused hmax]
    exact ⟨rfl, rfl, rfl⟩

/-- Settles O14: the starts and the total are the model's sums (`countSum_eq_cumulative`), and FT_COMMIT's three cases split as the statement's. -/
theorem ftCommitDerivesTheStarts : Obligations.FtCommitDerivesTheStarts := by
  refine ⟨onlyWord_of_plainOpcode (i := .ftCommit) (by decide), fun s hb => ?_, fun s hb => exec_busy hb .ftCommit⟩
  have hsum := countSum_eq_cumulative s (Nat.le_refl 256)
  refine ⟨derivedStarts s.count, BitVec.ofNat 40 (cumulative s.count 256), fun n h => ?_, ?_, ?_⟩
  · rw [derivedStarts_toNat s.count h, countSum_eq_cumulative s (Nat.le_of_lt_succ h)]
  · rw [cumulativeTotal_toNat, hsum]
  · rw [exec_ftCommit hb, hsum]
    exact ⟨fun h => ⟨congrArg _ (ftCommitEffect_zero h), codersRefused_of_noModel hb rfl⟩,
      fun h hm => congrArg _ (ftCommitEffect_accepted (Nat.pos_iff_ne_zero.mp h) hm), fun h => congrArg _ (ftCommitEffect_refused h)⟩

/-- Settles O15: a start is a partial sum of the counts (`derivedStarts_toNat`), so each adds its symbol's count (`cumulative_succ`). -/
theorem committedStartsArePrefixSums : Obligations.CommittedStartsArePrefixSums := by
  intro s hb
  have hstart : ∀ n (h : n < 257), ((ftCommitEffect s).start[n]).toNat = cumulative s.count n := fun n h => by
    simp only [ftCommitEffect_start]
    exact derivedStarts_toNat s.count h
  have hsucc : ∀ n (h : n < 256), ((ftCommitEffect s).start[n + 1]).toNat =
      ((ftCommitEffect s).start[n]).toNat + ((ftCommitEffect s).count[n]).toNat := fun n h => by
    simp only [hstart n (by omega), hstart (n + 1) (by omega), ftCommitEffect_count]
    exact cumulative_succ s.count h
  refine ⟨_, exec_ftCommit hb, (hstart 0 (by decide)).trans (cumulative_zero _), hsucc, ?_, fun m n hm hn hmn => ?_, fun n h => ?_⟩
  · rw [← BitVec.toNat_inj, hstart 256 (by decide), ftCommitEffect_total, cumulativeTotal_toNat]
  · rw [hstart m hm, hstart n hn]
    exact cumulative_mono s.count hmn (Nat.le_of_lt_succ hn)
  · rw [← BitVec.toNat_inj, ← BitVec.toNat_inj, hsucc n h]
    exact Nat.left_eq_add

end Sys2Proof.Machine

/-! ### Proofs: narrowing and lookup, as the statements write them -/

namespace Sys2Proof.Machine

open Sys2Proof Sys2Proof.Statements

theorem narrowLow_eq (s : State) (sym : Byte) (low high : Half) :
    narrowLow s sym low high = low.toNat + rangeOf low high * s.startOf sym / s.total.toNat := by
  rw [narrowLow, ← startOf_eq, rangeOf]

theorem narrowHigh_eq (s : State) (sym : Byte) (low high : Half) :
    narrowHigh s sym low high = low.toNat + rangeOf low high * (s.startOf sym + s.countOf sym) / s.total.toNat - 1 := by
  rw [narrowHigh, ← startOf_eq, ← countOf_eq, rangeOf]

/-- Settles O26: the width by `total_le_range`, the exact bounds by `narrow_toNat`, the containment by `narrow_inside`. -/
theorem narrowStaysInside : Obligations.NarrowStaysInside := by
  refine ⟨fun s hm hs => total_le_range hm hs, fun s sym low high hm hc hle hw => ?_⟩
  rw [← startOf_eq, ← countOf_eq]
  rw [← countOf_eq] at hc
  obtain ⟨hlow, hhigh⟩ := narrow_toNat hm hc hle hw
  obtain ⟨hpart, _⟩ := scaled_part hc (symbolEnd_le hm sym) hw
  exact ⟨⟨hlow.trans (narrowLow_eq ..).symm, (Nat.eq_sub_of_add_eq hhigh).trans (narrowHigh_eq ..).symm⟩, Nat.one_le_of_lt hpart,
    narrow_inside hm hc hle hw⟩

theorem inInterval_iff (s : State) (fv : Nat) (sym : Byte) :
    InInterval s fv sym ↔ s.startOf sym ≤ fv ∧ fv < s.startOf sym + s.countOf sym := by
  rw [InInterval, startOf_eq, countOf_eq]

/-- The intervals of a valid table follow one another: where one symbol's ends, no later symbol's has begun (R308). -/
theorem symbolEnd_le_startOf {s : State} (hm : s.ModelOk) {a b : Byte} (hab : a.toNat < b.toNat) :
    s.startOf a + s.countOf a ≤ s.startOf b := by
  have hsucc := hm.startSucc a.toNat a.isLt
  have hmono := start_mono hm (m := a.toNat + 1) hab (Nat.lt_succ_of_lt b.isLt)
  unfold State.startOf State.countOf
  omega

/-- No value lies in the intervals of two symbols (R308). -/
theorem inInterval_unique {s : State} (hm : s.ModelOk) {fv : Nat} {a b : Byte} (ha : InInterval s fv a) (hb : InInterval s fv b) :
    a = b := by
  rw [inInterval_iff] at ha hb
  rcases Nat.lt_trichotomy a.toNat b.toNat with hlt | heq | hgt
  · have := symbolEnd_le_startOf hm hlt
    omega
  · exact BitVec.eq_of_toNat_eq heq
  · have := symbolEnd_le_startOf hm hgt
    omega

/-- Settles O27: Lookup's symbol qualifies (`covers_lookup_of_lt`), and only one does (`inInterval_unique`). -/
theorem lookupFindsTheOneSymbol : Obligations.LookupFindsTheOneSymbol := by
  intro s fv hm hfv
  have hin : InInterval s fv (s.lookup fv) := (inInterval_iff ..).mpr (covers_lookup_of_lt hm hfv)
  have ⟨hle, hlt⟩ := hin
  exact ⟨hin, by omega, fun sym hsym => inInterval_unique hm hsym hin⟩

end Sys2Proof.Machine

/-! ### Proofs: the table built from data -/

namespace Sys2Proof.Machine

open Sys2Proof Sys2Proof.Statements

/-! #### FT_CLEAR, FT_INC of each byte, FT_COMMIT (R310) -/

/-- COUNT with one more of each byte (R302, R310). -/
def countAll (count : Vector Word 256) (data : List Byte) : Vector Word 256 := data.foldl countOne count

/-- COUNT as BUILD_MODEL leaves it (R310). -/
def builtCounts (data : List Byte) : Vector Word 256 := countAll (Vector.replicate 256 0) data

theorem issues_append {is js : List Instr} {s u t : State} (h : Issues is s u) (h' : Issues js u t) : Issues (is ++ js) s t := by
  induction is generalizing s with
  | nil =>
    obtain rfl := h
    exact h'
  | cons i is ih =>
    obtain ⟨v, hexec, hrest⟩ := h
    exact ⟨v, hexec, ih hrest⟩

theorem issues_ftInc {s : State} (hb : s.busy = false) (data : List Byte) (count : Vector Word 256) :
    Issues (data.map .ftInc) { s with count := count, modelValid := false }
      { s with count := countAll count data, modelValid := false } := by
  induction data generalizing count with
  | nil => rfl
  | cons b data ih => exact ⟨_, exec_ftInc (s := { s with count := count, modelValid := false }) hb b, ih (countOne count b)⟩

theorem issues_buildCommands {s : State} (hb : s.busy = false) (data : List Byte) :
    Issues (buildCommands data) s (ftCommitEffect { s with count := builtCounts data, modelValid := false }) :=
  ⟨_, exec_ftClear hb, issues_append (issues_ftInc hb data _) ⟨_, exec_ftCommit hb, rfl⟩⟩

/-- The lines of BUILD_MODEL are the CMD writes of its commands (R158, R160). -/
theorem assemble_buildModel (data : List Byte) :
    (buildModel data).map HostLine.assemble = (buildCommands data).map fun i => .write 0x000 (encode i) := by
  simp [buildModel, buildCommands, HostLine.assemble, CommandLine.command, SymLit.code]

/-! #### The counts and their sums -/

theorem countOne_toNat (count : Vector Word 256) (b : Byte) {n : Nat} (h : n < 256) :
    ((countOne count b)[n]).toNat = min ((count[n]).toNat + if b = BitVec.ofNat 8 n then 1 else 0) 0xFFFFFFFF := by
  by_cases hn : n = b.toNat
  · subst hn
    rw [countOne_same, if_pos (by simp)]
  · have hne : b ≠ BitVec.ofNat 8 n := by
      rintro rfl
      rw [BitVec.toNat_ofNat] at hn
      omega
    have := (count[n]).isLt
    rw [countOne_other count h hn, if_neg hne]
    omega

/-- Counting saturates once, however often it is reached (R302). -/
theorem countAll_toNat (count : Vector Word 256) (data : List Byte) {n : Nat} (h : n < 256) :
    ((countAll count data)[n]).toNat = min ((count[n]).toNat + data.count (BitVec.ofNat 8 n)) 0xFFFFFFFF := by
  induction data generalizing count with
  | nil =>
    have := (count[n]).isLt
    simp only [countAll, List.foldl_nil, List.count_nil]
    omega
  | cons b data ih =>
    refine (ih (countOne count b)).trans ?_
    rw [countOne_toNat count b h, List.count_cons]
    simp only [beq_iff_eq]
    omega

theorem builtCounts_toNat (data : List Byte) {n : Nat} (h : n < 256) :
    ((builtCounts data)[n]).toNat = min (data.count (BitVec.ofNat 8 n)) 0xFFFFFFFF := by
  rw [builtCounts, countAll_toNat _ data h, Vector.getElem_replicate, show (0 : Word).toNat = 0 from rfl, Nat.zero_add]

/-- The bytes below `n + 1` are those below `n` and the bytes `n`. -/
theorem countP_lt_succ (data : List Byte) {n : Nat} (h : n < 256) :
    data.countP (fun b => b.toNat < n + 1) = data.countP (fun b => b.toNat < n) + data.count (BitVec.ofNat 8 n) := by
  induction data with
  | nil => rfl
  | cons b data ih =>
    have hb : b = BitVec.ofNat 8 n ↔ b.toNat = n := by
      rw [← BitVec.toNat_inj, BitVec.toNat_ofNat, Nat.mod_eq_of_lt h]
    simp only [List.countP_cons, List.count_cons, ih, beq_iff_eq, hb, decide_eq_true_eq]
    split_ifs <;> omega

/-- A sum of saturated counts is the number of bytes, as long as that is below the saturation. -/
theorem cumulative_builtCounts_bounds (data : List Byte) {n : Nat} (h : n ≤ 256) :
    cumulative (builtCounts data) n ≤ data.countP (fun b => b.toNat < n) ∧
      min (data.countP fun b => b.toNat < n) 0xFFFFFFFF ≤ cumulative (builtCounts data) n := by
  induction n with
  | zero => simp [cumulative_zero]
  | succ n ih =>
    obtain ⟨hle, hge⟩ := ih (Nat.le_of_lt h)
    rw [cumulative_succ _ h, builtCounts_toNat data h, countP_lt_succ data h]
    omega

theorem countP_lt_256 (data : List Byte) : data.countP (fun b => b.toNat < 256) = data.length :=
  List.countP_eq_length.mpr fun b _ => decide_eq_true b.isLt

/-- Data short enough for a model gives the number of bytes below `n` (R303, R310). -/
theorem cumulative_builtCounts {data : List Byte} (hlen : data.length ≤ 0x3FFF) {n : Nat} (h : n ≤ 256) :
    cumulative (builtCounts data) n = data.countP fun b => b.toNat < n := by
  have hbounds := cumulative_builtCounts_bounds data h
  have hle : data.countP (fun b => b.toNat < n) ≤ data.length := List.countP_le_length
  omega

theorem total_builtCounts {data : List Byte} (hlen : data.length ≤ 0x3FFF) : cumulative (builtCounts data) 256 = data.length := by
  rw [cumulative_builtCounts hlen (Nat.le_refl 256), countP_lt_256]

/-- Data too long for a model gives a total above MAX_TOTAL, although its counts may be saturated (R302, R310). -/
theorem maxTotal_lt_builtCounts {data : List Byte} (hlen : 0x3FFF < data.length) :
    Config.maxTotal < cumulative (builtCounts data) 256 := by
  obtain ⟨_, hge⟩ := cumulative_builtCounts_bounds data (Nat.le_refl 256)
  rw [countP_lt_256] at hge
  simp only [Config.maxTotal]
  omega

/-! #### FT_COMMIT by whether the total is in range -/

/-- FT_COMMIT of a total up to MAX_TOTAL raises nothing; the model is valid unless the total is 0 (R303). -/
theorem ftCommitEffect_inRange {s : State} (h : cumulative s.count 256 ≤ Config.maxTotal) :
    ftCommitEffect s =
      { s with
        start := derivedStarts s.count, total := BitVec.ofNat 40 (cumulative s.count 256)
        modelValid := decide (1 ≤ cumulative s.count 256) } := by
  by_cases h0 : cumulative s.count 256 = 0
  · rw [ftCommitEffect_zero h0, decide_eq_false (by omega)]
  · rw [ftCommitEffect_accepted h0 h, decide_eq_true (by omega)]

/-! #### The container's bytes (R108) -/

theorem two_pow_bits_succ (n : Nat) : 2 ^ (8 * (n + 1)) = 256 * 2 ^ (8 * n) := by rw [Nat.mul_succ, Nat.pow_add, Nat.mul_comm]

theorem length_littleEndian (n v : Nat) : (littleEndian n v).length = n := by
  induction n generalizing v with
  | zero => rfl
  | succ n ih => rw [littleEndian, List.length_cons, ih]

theorem getElem?_littleEndian {n k : Nat} (h : k < n) (v : Nat) :
    (littleEndian n v)[k]? = some (BitVec.ofNat 8 (v / 2 ^ (8 * k))) := by
  induction n generalizing k v with
  | zero => exact absurd h (Nat.not_lt_zero k)
  | succ n ih =>
    cases k with
    | zero => simp [littleEndian]
    | succ k => rw [littleEndian, List.getElem?_cons_succ, ih (Nat.lt_of_succ_lt_succ h), Nat.div_div_eq_div_mul, two_pow_bits_succ]

theorem fromLittleEndian_littleEndian (n v : Nat) : fromLittleEndian (littleEndian n v) = v % 2 ^ (8 * n) := by
  induction n generalizing v with
  | zero => simp [littleEndian, fromLittleEndian, Nat.mod_one]
  | succ n ih => rw [littleEndian, fromLittleEndian, ih, BitVec.toNat_ofNat, two_pow_bits_succ, Nat.mod_mul]

/-- A value that fits its bytes is read back from them. -/
theorem ofNat_fromLittleEndian {m n : Nat} (h : m = 8 * n) (v : BitVec m) :
    BitVec.ofNat m (fromLittleEndian (littleEndian n v.toNat)) = v := by
  rw [fromLittleEndian_littleEndian, ← h, Nat.mod_eq_of_lt v.isLt, BitVec.ofNat_toNat, BitVec.setWidth_eq]

/-- Of blocks of one length, one after another, the block at index `i`. -/
theorem take_drop_flatMap {α β : Type} {f : α → List β} {m : Nat} (hf : ∀ x, (f x).length = m) (rest : List β) (l : List α) {i : Nat}
    (h : i < l.length) : ((l.flatMap f ++ rest).drop (m * i)).take m = f l[i] := by
  induction l generalizing i with
  | nil => exact absurd h (Nat.not_lt_zero i)
  | cons x l ih =>
    rw [List.flatMap_cons, List.append_assoc]
    cases i with
    | zero => exact List.take_left' (hf x)
    | succ i =>
      rw [Nat.mul_succ, Nat.add_comm, ← List.drop_drop, List.drop_left' (hf x)]
      exact ih (Nat.lt_of_succ_lt_succ h)

theorem length_countBlocks (counts : Vector Word 256) : (counts.toList.flatMap fun v => littleEndian 4 v.toNat).length = 1024 := by
  simp only [List.length_flatMap, length_littleEndian, List.map_const', List.sum_replicate, Vector.length_toList, smul_eq_mul,
    Nat.reduceMul]

namespace Container

theorem length_toBytes (c : Container) : c.toBytes.length = 1032 + c.body.length := by
  rw [toBytes, List.length_append, List.length_append, length_littleEndian, length_countBlocks]

theorem take_toBytes (c : Container) : c.toBytes.take 8 = littleEndian 8 c.totalSymbolCount.toNat := by
  rw [toBytes, List.append_assoc, List.take_left' (length_littleEndian ..)]

theorem countBlock_toBytes (c : Container) {n : Nat} (h : n < 256) :
    (c.toBytes.drop (8 + 4 * n)).take 4 = littleEndian 4 (c.counts[n]).toNat := by
  rw [toBytes, List.append_assoc, ← List.drop_drop, List.drop_left' (length_littleEndian ..),
    take_drop_flatMap (fun v : Word => length_littleEndian 4 v.toNat) _ _ (by rwa [Vector.length_toList]), Vector.getElem_toList]

theorem drop_toBytes (c : Container) : c.toBytes.drop 1032 = c.body := by
  refine List.drop_left' ?_
  rw [List.length_append, length_littleEndian, length_countBlocks]

theorem getElem?_toBytes_total (c : Container) {k : Nat} (h : k < 8) :
    c.toBytes[k]? = some (BitVec.ofNat 8 (c.totalSymbolCount.toNat / 2 ^ (8 * k))) := by
  rw [← List.getElem?_take_of_lt h, take_toBytes, getElem?_littleEndian h]

theorem getElem?_toBytes_count (c : Container) {n k : Nat} (h : n < 256) (hk : k < 4) :
    c.toBytes[8 + 4 * n + k]? = some ((c.counts[n]).extractLsb' (8 * k) 8) := by
  rw [← List.getElem?_drop, ← List.getElem?_take_of_lt hk, countBlock_toBytes c h, getElem?_littleEndian hk, BitVec.extractLsb',
    Nat.shiftRight_eq_div_pow]

/-- The bytes of a container hold it (R108). -/
theorem ofBytes_toBytes (c : Container) : ofBytes c.toBytes = some c := by
  have hlen : ¬ c.toBytes.length < 1032 := by
    rw [length_toBytes]
    omega
  have hcounts : (Vector.ofFn fun s : Fin 256 => BitVec.ofNat 32 (fromLittleEndian ((c.toBytes.drop (8 + 4 * s.val)).take 4))) =
      c.counts := by
    refine Vector.ext fun n h => ?_
    rw [Vector.getElem_ofFn, countBlock_toBytes c h, ofNat_fromLittleEndian (by rfl)]
  rw [ofBytes, if_neg hlen, take_toBytes, ofNat_fromLittleEndian (by rfl), hcounts, drop_toBytes]

/-- The 64 bits of the header's total hold the number of bytes of data short enough for a model (R108, R110). -/
theorem ofEncode_total {data : List Byte} (hlen : data.length ≤ 0x3FFF) (body : List Byte) :
    (ofEncode data body).totalSymbolCount.toNat = data.length := by
  rw [ofEncode, BitVec.toNat_ofNat]
  omega

/-- The header's counts are COUNT as BUILD_MODEL leaves it: with data short enough for a model neither saturates nor wraps (R110, R310). -/
theorem ofEncode_counts {data : List Byte} (hlen : data.length ≤ 0x3FFF) (body : List Byte) :
    (ofEncode data body).counts = builtCounts data := by
  refine Vector.ext fun n h => BitVec.eq_of_toNat_eq ?_
  have hle : data.count (BitVec.ofNat 8 n) ≤ data.length := List.count_le_length
  simp only [builtCounts_toNat data h, ofEncode, Vector.getElem_ofFn, BitVec.toNat_ofNat]
  omega

end Container

/-- Settles O60: the run of the commands (`issues_buildCommands`), then FT_COMMIT's outcome by whether the data is short enough for a model; the
header is compared through its fields (`Container.ofEncode_counts`). -/
theorem builtTableCountsTheData : Obligations.BuiltTableCountsTheData := by
  refine ⟨assemble_buildModel, fun data s hb => ⟨_, issues_buildCommands hb data, ?_⟩, Container.ofBytes_toBytes⟩
  by_cases hlen : data.length ≤ 0x3FFF
  · have htotal := total_builtCounts hlen
    rw [ftCommitEffect_inRange (htotal.trans_le hlen)]
    refine ⟨fun n h => builtCounts_toNat data h, fun _ => ⟨?_, fun n h => ?_⟩, ?_, fun _ => ⟨rfl, rfl⟩,
      fun h => absurd hlen (Nat.not_le_of_lt h), rfl, fun _ body => ⟨fun k hk => ?_, fun sym k hk => ?_, Container.drop_toBytes _⟩⟩
    · exact (cumulativeTotal_toNat _).trans htotal
    · exact (derivedStarts_toNat _ h).trans (cumulative_builtCounts hlen (Nat.le_of_lt_succ h))
    · simp only [htotal, decide_eq_true_eq, hlen, and_true]
    · rw [Container.getElem?_toBytes_total _ hk, Container.ofEncode_total hlen, cumulativeTotal_toNat, htotal]
    · rw [Container.getElem?_toBytes_count _ sym.isLt hk]
      simp only [Container.ofEncode_counts hlen]
      rfl
  · have hlt := Nat.lt_of_not_le hlen
    rw [ftCommitEffect_refused (maxTotal_lt_builtCounts hlt)]
    exact ⟨fun n h => builtCounts_toNat data h, fun h => absurd h hlen, ⟨fun h => (nomatch h), fun ⟨_, h⟩ => absurd h hlen⟩,
      fun h => absurd h hlen, fun _ => ⟨rfl, rfl⟩, rfl, fun h => absurd h hlen⟩

end Sys2Proof.Machine

/-! ### Proofs: the renormalization loops as the statements write them -/

namespace Sys2Proof.Machine

open Sys2Proof Sys2Proof.Statements

/-! #### One iteration (R367, R368) -/

theorem msb_eq_false_of_lt {x : Half} (h : x.toNat < 0x8000) : x.msb = false := by
  rw [BitVec.msb_eq_false_iff_two_mul_lt]
  omega

/-- Settles O23: `branch_bounds` says that no difference borrows or reaches bit 15. -/
theorem iterationNeverWraps : Obligations.IterationNeverWraps := by
  intro low high b hle hb
  obtain ⟨hsub, hlh, hsmall⟩ := branch_bounds hle hb
  have hsub' := Nat.le_trans hsub hlh
  refine ⟨BitVec.le_def.mpr hsub, BitVec.le_def.mpr hsub', msb_eq_false_of_lt ?_, msb_eq_false_of_lt ?_, nextLow_toNat hle hb,
    nextHigh_toNat hle hb, nextLow_le_nextHigh hle hb⟩
  · rwa [sub_toNat hsub']
  · rw [sub_toNat hsub]
    omega

/-! #### RenormDec's iterations (R367) -/

theorem renormDecLoop_length_le (n : Nat) (low high : Half) : (renormDecLoop n low high []).subs.length ≤ n := by
  induction n generalizing low high with
  | zero => exact Nat.le_refl 0
  | succ n ih =>
    cases hb : branchOf low high with
    | none =>
      rw [renormDecLoop_none _ hb]
      exact Nat.zero_le _
    | some b =>
      rw [renormDecLoop_some n hb]
      exact Nat.succ_le_succ (ih _ _)

/-- The width is doubled once for each iteration (R367). -/
theorem renormDecLoop_width (n : Nat) {low high : Half} (hle : low ≤ high) :
    2 ^ (renormDecLoop n low high []).subs.length * rangeOf low high =
      rangeOf (renormDecLoop n low high []).low (renormDecLoop n low high []).high := by
  induction n generalizing low high with
  | zero => exact Nat.one_mul _
  | succ n ih =>
    cases hb : branchOf low high with
    | none =>
      rw [renormDecLoop_none _ hb]
      exact Nat.one_mul _
    | some b =>
      rw [renormDecLoop_some n hb]
      dsimp only
      rw [← ih (nextLow_le_nextHigh hle hb), rangeOf_next hle hb, List.length_cons, Nat.pow_succ, Nat.mul_assoc]

/-- Settles O22: one iteration by `rangeOf_next`, all of RenormDec's by `renormDecLoop_width`. -/
theorem eachIterationDoublesTheWidth : Obligations.EachIterationDoublesTheWidth := by
  refine ⟨fun low high b => rangeOf_next, fun low high hle =>
    ⟨renormDecLoop_length_le _ _ _, settled_iff.mp (renormDec_settled hle), ?_⟩⟩
  calc 2 ^ (renormDec low high).subs.length * rangeOf low high
      = rangeOf (renormDec low high).low (renormDec low high).high := renormDecLoop_width _ hle
    _ ≤ 0x10000 := rangeOf_le _ _

/-- A settled interval lies around HALF and reaches past a quarter on one side of it (R366). -/
theorem le_rangeOf_of_settled {low high : Half} (h : Settled low high) : 0x4002 ≤ rangeOf low high := by
  rw [settled_iff, branchOf_none] at h
  unfold rangeOf
  omega

/-- Settles O21: both loops return a settled interval, which is wide (`le_rangeOf_of_settled`). -/
theorem renormalizationSettles : Obligations.RenormalizationSettles := by
  intro low high hle
  have hdec := renormDec_settled hle
  refine ⟨fun pending r hr => ?_, hdec, le_rangeOf_of_settled hdec⟩
  have henc := renormEnc_settled hle hr
  exact ⟨henc, le_rangeOf_of_settled henc⟩

/-! #### RenormEnc by its branches (R360, R361) -/

theorem renormEncLoop_none (n : Nat) {low high : Half} (h : branchOf low high = none) (pending : Word) :
    renormEncLoop n low high pending [] = some ⟨low, high, pending, []⟩ := by
  cases n with
  | zero => rfl
  | succ n => simp only [renormEncLoop, h]

/-- E1 and E2 emit their bit and resolve the pending ones (R354). -/
theorem renormEncLoop_resolve (n : Nat) {low high : Half} {b : Branch} (h : branchOf low high = some b) (hne : b ≠ .e3) (pending : Word) :
    renormEncLoop (n + 1) low high pending [] =
      (renormEncLoop n (b.nextLow low) (b.nextHigh high) 0 []).map (prepend (resolved (b = .e2) pending)) := by
  cases b with
  | e1 =>
    simp only [renormEncLoop, h]
    exact renormEncLoop_bits ..
  | e2 =>
    simp only [renormEncLoop, h]
    exact renormEncLoop_bits ..
  | e3 => exact absurd rfl hne

/-- E3 leaves one more bit pending, or overflows (R355, R361). -/
theorem renormEncLoop_defer (n : Nat) {low high : Half} (h : branchOf low high = some .e3) (pending : Word) :
    renormEncLoop (n + 1) low high pending [] =
      if pending = Config.maxPending then none
      else renormEncLoop n (Branch.e3.nextLow low) (Branch.e3.nextHigh high) (pending + 1) [] := by
  simp only [renormEncLoop, h]

/-- A bound that allows for doubling up to the full width never ends the encoder's loop (R367; log 7). -/
theorem renormEncLoop_bound_succ (n : Nat) {low high : Half} (hle : low ≤ high) (hw : 2 ^ 16 ≤ 2 ^ n * rangeOf low high) (pending : Word) :
    renormEncLoop (n + 1) low high pending [] = renormEncLoop n low high pending [] := by
  induction n generalizing low high pending with
  | zero =>
    rw [Nat.pow_zero, Nat.one_mul] at hw
    have hnone := settled_iff.mp (settled_of_full hw)
    rw [renormEncLoop_none _ hnone, renormEncLoop_none _ hnone]
  | succ n ih =>
    cases hb : branchOf low high with
    | none => rw [renormEncLoop_none _ hb, renormEncLoop_none _ hb]
    | some b =>
      have hw' : 2 ^ 16 ≤ 2 ^ n * rangeOf (b.nextLow low) (b.nextHigh high) := by
        rwa [rangeOf_next hle hb, ← Nat.mul_assoc, ← Nat.pow_succ]
      have hih := ih (nextLow_le_nextHigh hle hb) hw'
      by_cases he3 : b = .e3
      · subst he3
        rw [renormEncLoop_defer _ hb, renormEncLoop_defer _ hb, hih]
      · rw [renormEncLoop_resolve _ hb he3, renormEncLoop_resolve _ hb he3, hih]

section Branches

variable {low high : Half}

/-- After one iteration 15 more are enough (R367). -/
theorem renormEncLoop_next {b : Branch} (hle : low ≤ high) (hb : branchOf low high = some b) (pending : Word) :
    renormEncLoop 15 (b.nextLow low) (b.nextHigh high) pending [] = renormEnc (b.nextLow low) (b.nextHigh high) pending := by
  have hpos := rangeOf_pos low high
  refine (renormEncLoop_bound_succ 15 (nextLow_le_nextHigh hle hb) ?_ pending).symm
  rw [rangeOf_next hle hb]
  omega

theorem renormEnc_resolve {b : Branch} (hle : low ≤ high) (hb : branchOf low high = some b) (hne : b ≠ .e3) (pending : Word) :
    renormEnc low high pending = (renormEnc (b.nextLow low) (b.nextHigh high) 0).map (prepend (resolved (b = .e2) pending)) := by
  rw [← renormEncLoop_next hle hb]
  exact renormEncLoop_resolve 15 hb hne pending

theorem renormEnc_defer (hle : low ≤ high) (hb : branchOf low high = some .e3) (pending : Word) :
    renormEnc low high pending =
      if pending = Config.maxPending then none else renormEnc (Branch.e3.nextLow low) (Branch.e3.nextHigh high) (pending + 1) := by
  rw [← renormEncLoop_next hle hb]
  exact renormEncLoop_defer 15 hb pending

theorem renormEnc_done (hb : branchOf low high = none) (pending : Word) : renormEnc low high pending = some ⟨low, high, pending, []⟩ :=
  renormEncLoop_none _ hb pending

end Branches

/-- E1 subtracts nothing (R355). -/
theorem nextLow_e1 (low : Half) : Branch.e1.nextLow low = low <<< 1 := by
  rw [Branch.nextLow, show Branch.e1.subtrahend.val = 0#16 from rfl, BitVec.sub_zero]

theorem nextHigh_e1 (high : Half) : Branch.e1.nextHigh high = high <<< 1 ||| 1 := by
  rw [Branch.nextHigh, show Branch.e1.subtrahend.val = 0#16 from rfl, BitVec.sub_zero]

/-- Settles O20: the statement's tests are `branchOf`'s, and the model's bound does not show (`renormEncLoop_bound_succ`). -/
theorem renormEncFollowsItsBranches : Obligations.RenormEncFollowsItsBranches := by
  intro low high pending hle
  refine ⟨fun h1 => ?_, fun h1 h2 => ?_, fun h1 h2 h3 => ?_, fun h1 h2 h3 => ?_⟩
  · have hb : branchOf low high = some .e1 := if_pos h1
    rw [← nextLow_e1, ← nextHigh_e1]
    exact renormEnc_resolve hle hb nofun pending
  · have hb : branchOf low high = some .e2 := (if_neg h1).trans (if_pos h2)
    exact renormEnc_resolve hle hb nofun pending
  · have hb : branchOf low high = some .e3 := (if_neg h1).trans ((if_neg h2).trans (if_pos h3))
    exact renormEnc_defer hle hb pending
  · have hb : branchOf low high = none := (if_neg h1).trans ((if_neg h2).trans (if_neg h3))
    exact renormEnc_done hb pending

/-! #### The bits RenormEnc owes (R361, R370) -/

/-- Below its maximum PENDING counts up (R361). -/
theorem pending_succ_toNat {pending : Word} (h : pending ≠ Config.maxPending) : (pending + 1).toNat = pending.toNat + 1 := by
  have hlt := pending.isLt
  have hne : pending.toNat ≠ 0xFFFFFFFF := fun h' => h (BitVec.eq_of_toNat_eq h')
  rw [BitVec.toNat_add, show (1 : Word).toNat = 1 from rfl]
  omega

theorem resolved_length (bit : Bool) (pending : Word) : (resolved bit pending).length = pending.toNat + 1 := by
  rw [resolved, List.length_cons, List.length_replicate]

/-- Each iteration emits its bit or leaves it pending (R370). -/
theorem renormEncLoop_owed (n : Nat) {low high : Half} {pending : Word} {r : EncResult} (h : renormEncLoop n low high pending [] = some r) :
    r.bits.length + r.pending.toNat = (renormDecLoop n low high []).subs.length + pending.toNat := by
  induction n generalizing low high pending r with
  | zero =>
    cases h
    rfl
  | succ n ih =>
    cases hb : branchOf low high with
    | none =>
      rw [renormEncLoop_none _ hb] at h
      cases h
      rw [renormDecLoop_none _ hb]
      rfl
    | some b =>
      rw [renormDecLoop_some n hb, List.length_cons]
      by_cases he3 : b = .e3
      · subst he3
        rw [renormEncLoop_defer n hb] at h
        split at h
        · cases h
        · next hmax =>
          have howed := ih h
          rw [pending_succ_toNat hmax] at howed
          omega
      · rw [renormEncLoop_resolve n hb he3] at h
        obtain ⟨r', hr', rfl⟩ := Option.map_eq_some_iff.mp h
        have howed := ih hr'
        rw [show (0 : Word).toNat = 0 from rfl] at howed
        simp only [prepend, List.length_append, resolved_length]
        omega

/-- Settles O24, by induction over the loops. -/
theorem everyIterationOwesOneBit : Obligations.EveryIterationOwesOneBit := fun _ _ _ _ => renormEncLoop_owed _

/-- At most 16 iterations emit at most 16 bits beside those pending (R367, R370). -/
theorem renormEnc_bits_length_le {low high : Half} {pending : Word} {r : EncResult} (h : renormEnc low high pending = some r) :
    r.bits.length ≤ 16 + pending.toNat := by
  have howed := everyIterationOwesOneBit low high pending r h
  have hiter : (renormDec low high).subs.length ≤ 16 := renormDecLoop_length_le _ _ _
  omega

/-- The loop does not overflow while PENDING is as far below its maximum as the loop has iterations (R361). -/
theorem renormEncLoop_some_of_pending (n : Nat) (low high : Half) {pending : Word} (h : pending.toNat + n ≤ 0xFFFFFFFF) :
    ∃ r, renormEncLoop n low high pending [] = some r := by
  induction n generalizing low high pending with
  | zero => exact ⟨_, rfl⟩
  | succ n ih =>
    cases hb : branchOf low high with
    | none => exact ⟨_, renormEncLoop_none _ hb pending⟩
    | some b =>
      by_cases he3 : b = .e3
      · subst he3
        have hmax : pending ≠ Config.maxPending := by
          rintro rfl
          exact absurd h (by simp [Config.maxPending])
        rw [renormEncLoop_defer n hb, if_neg hmax]
        exact ih _ _ (by rw [pending_succ_toNat hmax]; omega)
      · obtain ⟨r, hr⟩ := ih (b.nextLow low) (b.nextHigh high) (pending := 0) (by rw [show (0 : Word).toNat = 0 from rfl]; omega)
        rw [renormEncLoop_resolve n hb he3, hr]
        exact ⟨_, rfl⟩

end Sys2Proof.Machine

/-! ### Proofs: the encoder commands -/

namespace Sys2Proof.Machine

open Sys2Proof Sys2Proof.Statements

/-- A command is refused with the bit of its first error (R505, R512). -/
theorem exec_refused {i : Instr} {s : State} {e : Err} (h : firstError i s = some e) :
    exec i s = .next (refused s (1#8 <<< e.bit) (encode i)) := by
  have hne : e ≠ .inOverflow := by rcases firstError_some h with rfl | rfl | rfl | rfl <;> decide
  rw [exec_of_some h, raise_eq hne]
  rfl

/-- Settles O16: ENC_INIT's error check looks at MODEL_VALID only. -/
theorem encInitOpensAStream : Obligations.EncInitOpensAStream := by
  refine ⟨onlyWord_of_plainOpcode (i := .encInit) (by decide), fun s hb hv => exec_of_none ?_, fun s hb hv => exec_noModel ?_,
    fun _ hb => exec_busy hb .encInit⟩
  · rw [firstError_encInit hb, if_pos hv]
  · rw [firstError_encInit hb, hv]
    rfl

/-! #### ENC_SYM (R363) -/

theorem encSymWords : SymbolWords 0x21 .encSym := ⟨fun sym => decode_encode (.encSym sym), fun _ _ => raisesIllegal_of_rsv⟩

theorem ofNat_narrowLow (s : State) (sym : Byte) (low high : Half) :
    BitVec.ofNat 16 (narrowLow s sym low high) = (s.narrow sym low high).1 := by rw [narrow_eq]

theorem ofNat_narrowHigh (s : State) (sym : Byte) (low high : Half) :
    BitVec.ofNat 16 (narrowHigh s sym low high) = (s.narrow sym low high).2 := by rw [narrow_eq]

/-- Narrow by the only symbol of a model leaves the interval as it is (R305). -/
theorem narrow_onlySymbol {s : State} (hm : s.ModelOk) {sym : Byte} (hc : s.countOf sym = s.total.toNat) {low high : Half}
    (hle : low ≤ high) : s.narrow sym low high = (low, high) := by
  have hend := symbolEnd_le hm sym
  have hstart : s.startOf sym = 0 := by omega
  have hpos := hm.totalPos
  have hle := BitVec.le_def.mp hle
  simp only [State.narrow, hstart, hc, Nat.mul_zero, Nat.zero_div, Nat.add_zero, Nat.zero_add, Nat.mul_div_cancel _ hpos, rangeOf]
  rw [show low.toNat + (high.toNat - low.toNat + 1) - 1 = high.toNat by omega, BitVec.ofNat_toNat, BitVec.ofNat_toNat,
    BitVec.setWidth_eq, BitVec.setWidth_eq]

theorem countOf_eq_zero_iff (s : State) (sym : Byte) : s.countOf sym = 0 ↔ s.count[sym.toNat]?.getD 0 = 0 := by
  rw [countOf_eq]
  exact ⟨fun h => BitVec.eq_of_toNat_eq h, congrArg BitVec.toNat⟩

section EncSym

variable {s : State} {sym : Byte}

/-- ENC_SYM once its error check has passed: a result of RenormEnc (R363). -/
theorem exec_encSym_coded {r : EncResult} (hf : firstError (.encSym sym) s = none)
    (hr : renormEnc (s.narrow sym s.low s.high).1 (s.narrow sym s.low s.high).2 s.pending = some r) :
    exec (.encSym sym) s = .next { s with low := r.low, high := r.high, pending := r.pending, obl := r.bits } := by
  rw [exec_of_none hf, effectOf, encSymEffect_coded hr]

/-- ENC_SYM once its error check has passed: an overflow (R361, R509). -/
theorem exec_encSym_overflow (hf : firstError (.encSym sym) s = none)
    (hr : renormEnc (s.narrow sym s.low s.high).1 (s.narrow sym s.low s.high).2 s.pending = none) :
    exec (.encSym sym) s = .next (refused { s with mode := .none } 0x40 (encode (.encSym sym))) := by
  rw [exec_of_none hf, effectOf, encSymEffect_overflow hr, overflowPending_eq]
  rfl

/-- The only symbol of a model needs no bit and no narrower interval (R352, R363). -/
theorem exec_encSym_onlySymbol (hf : firstError (.encSym sym) s = none) (hm : s.ModelOk) (hs : Settled s.low s.high)
    (hc : s.countOf sym = s.total.toNat) : exec (.encSym sym) s = .next s := by
  have hobl : s.obl = [] := ((busy_eq_false s).mp (firstError_none_busy hf)).1
  have hr : renormEnc (s.narrow sym s.low s.high).1 (s.narrow sym s.low s.high).2 s.pending = some ⟨s.low, s.high, s.pending, []⟩ := by
    rw [narrow_onlySymbol hm hc (settled_le hs)]
    exact renormEnc_done (settled_iff.mp hs) s.pending
  rw [exec_encSym_coded hf hr, ← hobl]

end EncSym

/-- Settles O17: the errors by `firstError_encSym`, then the clauses by what RenormEnc answers for the narrowed interval. -/
theorem encSymNarrowsAndRenormalizes : Obligations.EncSymNarrowsAndRenormalizes := by
  refine ⟨encSymWords, fun s sym => ?_⟩
  rw [← encode_encSym, ofNat_narrowLow, ofNat_narrowHigh]
  refine ⟨fun hb => exec_busy hb _, fun hb hm => exec_refused (e := .badMode) ?_, fun hb hm hv => exec_noModel ?_,
    fun hb hm hv hc => exec_refused (e := .zeroFreq) ?_, fun hb hm hv hc => ?_⟩
  · rw [firstError_encSym sym hb, if_pos hm]
  · simp [firstError_encSym sym hb, hm, hv]
  · simp [firstError_encSym sym hb, hm, hv, (countOf_eq_zero_iff s sym).mpr hc]
  · have hf : firstError (.encSym sym) s = none := by
      simp [firstError_encSym sym hb, hm, hv, mt (countOf_eq_zero_iff s sym).mp hc]
    refine ⟨fun r hr => ⟨exec_encSym_coded hf hr, renormEnc_bits_length_le hr, everyIterationOwesOneBit _ _ _ r hr⟩, exec_encSym_overflow hf,
      fun hroom => ?_, fun hmodel hs honly => exec_encSym_onlySymbol hf hmodel hs (by rwa [countOf_eq])⟩
    obtain ⟨r, hr⟩ := renormEncLoop_some_of_pending 16 _ _ hroom
    exact ⟨r, exec_encSym_coded hf hr, hr⟩

/-! #### Whole bytes while the block is BUSY (R364) -/

theorem onb_eq_zero_of_idle {s : State} (hwhole : (s.onb.val + s.obl.length) % 8 = 0) (hb : s.busy = false) : s.onb = 0 := by
  have ⟨hobl, _⟩ := (busy_eq_false s).mp hb
  have hlt := s.onb.isLt
  rw [hobl, List.length_nil] at hwhole
  exact Fin.ext (by rw [Fin.val_zero]; omega)

/-- The turn is a PutStep of the first bit, a GetStep, or nothing (R205). -/
theorem engineTurn_cases (s : State) :
    (∃ b rest, s.obl = b :: rest ∧ s.engineTurn = s.putStep) ∨ s.engineTurn = s.getStep ∨ s.engineTurn = s := by
  unfold State.engineTurn
  split
  · next hput =>
    obtain ⟨b, rest, ho⟩ := List.exists_cons_of_ne_nil ((putEnabled_iff s).mp hput).1
    exact .inl ⟨b, rest, ho, rfl⟩
  · split
    · exact .inr (.inl rfl)
    · exact .inr (.inr rfl)

/-- PutStep moves one bit of the backlog into the packer, where a full byte leaves 0 bits (R252). -/
theorem putStep_whole {s : State} {b : Bool} {rest : List Bool} (ho : s.obl = b :: rest) :
    (s.putStep.onb.val + s.putStep.obl.length) % 8 = (s.onb.val + s.obl.length) % 8 := by
  by_cases h7 : s.onb = 7
  · have honb : s.onb.val = 7 := congrArg Fin.val h7
    rw [putStep_full ho h7, ho, List.length_cons]
    simp only [Fin.val_zero]
    omega
  · rw [putStep_room ho h7, ho, List.length_cons]
    simp only [onb_succ h7]
    omega

/-- The turn keeps the bits the block has to give, packed or not, and whole bytes whole (R205, R252). -/
theorem engineTurn_keeps_bits (s : State) :
    (s.engineTurn.onb.val + s.engineTurn.obl.length) % 8 = (s.onb.val + s.obl.length) % 8 ∧
      s.engineTurn.packedBits ++ s.engineTurn.obl = s.packedBits ++ s.obl := by
  rcases engineTurn_cases s with ⟨b, rest, ho, he⟩ | he | he
  · rw [he, putStep_packedBits ho, putStep_obl, ho, List.tail_cons, List.append_assoc, List.singleton_append]
    have hwhole := putStep_whole ho
    rw [putStep_obl, ho, List.tail_cons] at hwhole
    exact ⟨hwhole, rfl⟩
  · rw [he]
    simp [State.packedBits]
  · rw [he]
    exact ⟨rfl, rfl⟩

/-- The bits of a byte taken from OUT are the first 8, or OUT is empty and none are taken (R259). -/
theorem popOut_bits (s : State) :
    s.popOut.packedBits ++ s.popOut.obl = s.packedBits ++ s.obl ∨
      s.popOut.packedBits ++ s.popOut.obl = (s.packedBits ++ s.obl).drop 8 := by
  cases hq : s.outQ with
  | nil => exact .inl (by simp [State.packedBits, hq])
  | cons b rest =>
    right
    simp only [State.packedBits, popOut_outQ, popOut_oacc, popOut_onb, popOut_obl, hq, List.tail_cons, bitsOf_cons, List.append_assoc]
    exact (List.drop_left' (lowBits_length b 8)).symm

theorem pushIn_packedBits (s : State) (b : Byte) : (s.pushIn b).packedBits = s.packedBits := by
  simp only [State.packedBits, pushIn_outQ, pushIn_oacc, pushIn_onb]

/-- By the step's event (`StepEffect`): the turn by `engineTurn_keeps_bits`, a pop by `popOut_bits`; no command runs while BUSY. -/
theorem keepsWholeBytes : KeepsWholeBytes := by
  intro u v hb hwhole h
  suffices hv : (v.onb.val + v.obl.length) % 8 = 0 ∧
      (u.resetNext ∨ v.packedBits ++ v.obl = u.packedBits ++ u.obl ∨
        ((∃ off rest, u.nextRead .outData off rest) ∧ v.packedBits ++ v.obl = (u.packedBits ++ u.obl).drop 8)) from
    ⟨hv.1, onb_eq_zero_of_idle hv.1, hv.2⟩
  cases stepEffect_of_step h with
  | engine rest =>
    obtain ⟨hw, hbits⟩ := engineTurn_keeps_bits { u with agenda := rest }
    exact ⟨hw.trans hwhole, .inr (.inl hbits)⟩
  | read off rest hn =>
    by_cases hr : registerAt off = .outData
    · rw [Host.Outcome.next.inj (h.symm.trans (step_of_outData_read ⟨hr, hn⟩))]
      exact ⟨hwhole, .inr ((popOut_bits u).imp_right fun hpop => ⟨⟨off, rest, hr, hn⟩, hpop⟩)⟩
    · rw [busRead_of_ne hr]
      exact ⟨hwhole, .inr (.inl rfl)⟩
  | run i rest hi => exact absurd (hi.1.symm.trans hb) nofun
  | push v rest =>
    rw [pushIn_onb, pushIn_obl, pushIn_packedBits]
    exact ⟨hwhole, .inr (.inl rfl)⟩
  | reset rest hn => exact ⟨rfl, .inl hn⟩
  | _ => exact ⟨hwhole, .inr (.inl rfl)⟩

/-! #### ENC_FINISH (R364) -/

/-- Settles O18: the errors by `firstError_encFinish`, the last clause by `exec_encFinish`, and the bytes it completes by `add_pad_mod_eight`. -/
theorem encFinishTerminatesTheStream : Obligations.EncFinishTerminatesTheStream := by
  refine ⟨onlyWord_of_plainOpcode (i := .encFinish) (by decide), keepsWholeBytes, fun s => ⟨fun hb => exec_busy hb .encFinish,
    fun hb hm => exec_refused (e := .badMode) ?_, fun hb hm hp => ?_, fun hb hm hp => ?_⟩⟩
  · rw [firstError_encFinish hb, if_pos hm]
  · have hf : firstError .encFinish s = none := by rw [firstError_encFinish hb, if_neg (not_not_intro hm)]
    rw [exec_of_none hf, effectOf, encFinishEffect_overflow hp, overflowPending_eq]
    rfl
  · refine ⟨finishBits s.low s.pending, rfl, _, exec_encFinish hb hm hp, rfl, ?_, ?_⟩
    · exact (busy_eq_true _).mpr (.inl fun hnil => by simpa [finishBits_length] using congrArg List.length hnil)
    · rw [List.length_append, padBits, List.length_replicate, ← Nat.add_assoc]
      exact add_pad_mod_eight _

end Sys2Proof.Machine

/-! ### Proofs: the decoder -/

namespace Sys2Proof.Machine

open Sys2Proof Sys2Proof.Statements

/-! #### RenormDec (R405, R409) -/

/-- Settles O25: `renormEnc_bounds`, the induction over both loops. -/
theorem decoderRenormalizesInLockStep : Obligations.DecoderRenormalizesInLockStep := by
  intro low high pending r hr
  obtain ⟨hlow, hhigh⟩ := renormEnc_bounds hr
  exact ⟨hlow.symm, hhigh.symm⟩

/-- A bound that allows for doubling up to the full width never ends the decoder's loop (R367; log 7). -/
theorem renormDecLoop_bound_succ (n : Nat) {low high : Half} (hle : low ≤ high) (hw : 2 ^ 16 ≤ 2 ^ n * rangeOf low high) :
    renormDecLoop (n + 1) low high [] = renormDecLoop n low high [] := by
  induction n generalizing low high with
  | zero =>
    rw [Nat.pow_zero, Nat.one_mul] at hw
    have hnone := settled_iff.mp (settled_of_full hw)
    rw [renormDecLoop_none _ hnone, renormDecLoop_none _ hnone]
  | succ n ih =>
    cases hb : branchOf low high with
    | none => rw [renormDecLoop_none _ hb, renormDecLoop_none _ hb]
    | some b =>
      have hw' : 2 ^ 16 ≤ 2 ^ n * rangeOf (b.nextLow low) (b.nextHigh high) := by
        rwa [rangeOf_next hle hb, ← Nat.mul_assoc, ← Nat.pow_succ]
      rw [renormDecLoop_some _ hb, renormDecLoop_some _ hb, ih (nextLow_le_nextHigh hle hb) hw']

/-- A branch records its subtrahend, and the loop goes on from the next bounds, for which 15 more iterations are enough (R367, R405). -/
theorem renormDec_branch {low high nextLow nextHigh : Half} (b : Branch) (hle : low ≤ high) (hb : branchOf low high = some b)
    (hlow : b.nextLow low = nextLow) (hhigh : b.nextHigh high = nextHigh) :
    renormDec low high =
      { renormDec nextLow nextHigh with subs := b.subtrahend :: (renormDec nextLow nextHigh).subs } := by
  subst hlow hhigh
  have hnext : renormDec (b.nextLow low) (b.nextHigh high) = renormDecLoop 15 (b.nextLow low) (b.nextHigh high) [] := by
    have hpos := rangeOf_pos low high
    refine renormDecLoop_bound_succ 15 (nextLow_le_nextHigh hle hb) ?_
    rw [rangeOf_next hle hb]
    omega
  rw [hnext]
  exact renormDecLoop_some 15 hb

/-- Settles O30: the statement's tests are `branchOf`'s, and one branch is `renormDec_branch`. -/
theorem renormDecFollowsItsBranches : Obligations.RenormDecFollowsItsBranches := by
  intro low high hle
  refine ⟨fun h1 => ?_, fun h1 h2 => ?_, fun h1 h2 h3 => ?_, fun h1 h2 h3 => ?_⟩
  · have hb : branchOf low high = some .e1 := if_pos h1
    exact renormDec_branch .e1 hle hb (nextLow_e1 low) (nextHigh_e1 high)
  · have hb : branchOf low high = some .e2 := (if_neg h1).trans (if_pos h2)
    exact renormDec_branch .e2 hle hb rfl rfl
  · have hb : branchOf low high = some .e3 := (if_neg h1).trans ((if_neg h2).trans (if_pos h3))
    exact renormDec_branch .e3 hle hb rfl rfl
  · have hb : branchOf low high = none := (if_neg h1).trans ((if_neg h2).trans (if_neg h3))
    exact renormDecLoop_none _ hb

/-! #### The cumulative value and its symbol (R403, R404, R408) -/

/-- Settles O31: `scaled < R * TOTAL`, so the quotient is below TOTAL (`freqVal_eq`). -/
theorem clampNeverTakesEffect : Obligations.ClampNeverTakesEffect := fun _ => freqVal_eq

/-- Settles O32: scaling back the part that holds the quotient (`scaled_part_holds`, by `found_interval_holds_value`). -/
theorem foundIntervalHoldsTheValue : Obligations.FoundIntervalHoldsTheValue := by
  intro s hm hs hl hh
  obtain ⟨_, hvalue⟩ := found_interval_holds_value hm hs hl hh
  exact hvalue

/-! #### DEC_INIT and DEC_SYM (R406, R407) -/

/-- Settles O28: DEC_INIT's error check looks at MODEL_VALID only. -/
theorem decInitOpensAStream : Obligations.DecInitOpensAStream := by
  refine ⟨onlyWord_of_plainOpcode (i := .decInit) (by decide), fun s hb hv => exec_of_none ?_, fun s hb hv => exec_noModel ?_,
    fun _ hb => exec_busy hb .decInit⟩
  · rw [firstError_decInit hb, if_pos hv]
  · rw [firstError_decInit hb, hv]
    rfl

/-- Between commands an open decode stream has VALUE inside the interval (R408). -/
theorem State.Inv.value_inside {s : State} (h : s.Inv) (hm : s.mode = .dec) (hi : s.ibl = []) : s.low ≤ s.value ∧ s.value ≤ s.high := by
  have hfits := h.value hm
  rwa [hi] at hfits

/-- With VALUE inside the interval, the symbol that DEC_SYM looks up is the one whose interval holds the quotient of R403 (R307, R404). -/
theorem inInterval_lookup_freqVal {s : State} (hm : s.ModelOk) (hl : s.low ≤ s.value) (hh : s.value ≤ s.high) :
    InInterval s (((s.value.toNat - s.low.toNat + 1) * s.total.toNat - 1) / (s.high.toNat - s.low.toNat + 1)) (s.lookup s.freqVal) := by
  obtain ⟨hquot, hlt⟩ := clampNeverTakesEffect s hl hh hm.totalPos
  obtain ⟨hin, _⟩ := lookupFindsTheOneSymbol s s.freqVal hm hlt
  rwa [← hquot]

/-- Settles O29: the errors by `firstError_decSym`; the symbol is Lookup's, which the invariant's VALUE makes the one of R407. -/
theorem decSymFindsTheSymbol : Obligations.DecSymFindsTheSymbol := by
  refine ⟨onlyWord_of_plainOpcode (i := .decSym) (by decide), fun s => ⟨fun hb => exec_busy hb .decSym,
    fun hb hm => exec_refused (e := .badMode) ?_, fun hb hm hv => exec_noModel ?_, fun hb hm hv => ?_⟩⟩
  · rw [firstError_decSym hb, if_pos hm]
  · rw [firstError_decSym hb, if_neg (not_not_intro hm), if_pos hv]
  · have hf : firstError .decSym s = none := by
      rw [firstError_decSym hb, if_neg (not_not_intro hm), hv]
      rfl
    refine ⟨s.lookup s.freqVal, _, rfl, ?_, fun hinv => ?_⟩
    · rw [exec_of_none hf, ofNat_narrowLow, ofNat_narrowHigh]
      rfl
    · obtain ⟨_, hibl⟩ := (busy_eq_false s).mp hb
      obtain ⟨hl, hh⟩ := hinv.value_inside hm hibl
      exact inInterval_lookup_freqVal (hinv.model hv) hl hh

end Sys2Proof.Machine

/-! ### Proofs: the errors of a command and what they leave -/

namespace Sys2Proof.Machine

open Sys2Proof Sys2Proof.Statements

/-! #### Nothing stops the block (R500, R513, R523) -/

theorem step_next (s : State) : ∃ t, step s = .next t := by
  cases ha : s.agenda with
  | nil => exact ⟨_, step_of_agenda_nil ha⟩
  | cons e rest =>
    rw [step_of_agenda_cons ha]
    exact perform_next e _

/-- Settles O6: an event by `perform_next`, a command by its issue function behind the error check. -/
theorem everyStepGoesOn : Obligations.EveryStepGoesOn := ⟨step_next, fun i s => ⟨_, exec_eq i s⟩⟩

/-- Settles O7: the write goes to the command port, which looks at BUSY before it decodes the word. -/
theorem wordIsDroppedWhileBusy : Obligations.WordIsDroppedWhileBusy := by
  intro s off w hr hb
  rw [busWrite_cmd hr]
  exact commandPort_busy hb w

/-! #### The order of the errors (R511) -/

section ErrorOrder

variable {i : Instr} {s : State}

theorem wrongMode_iff : s.wrongMode i = true ↔ WrongMode i s := by
  cases i <;> simp [State.wrongMode, requiredMode, WrongMode]

theorem noModel_iff : (needsModel i && !s.modelValid) = true ↔ NoModel i s := by
  cases i <;> simp [needsModel, NoModel]

theorem zeroCount_iff : s.zeroCount i = true ↔ ZeroFreq i s := by
  cases i <;> simp [State.zeroCount, codedSymbol, ZeroFreq, countOf_eq_zero_iff]

/-- The check of an idle block, by the conditions of the errors' own rules. -/
theorem firstError_idle [Decidable (WrongMode i s)] [Decidable (NoModel i s)] [Decidable (ZeroFreq i s)] (hb : s.busy = false) :
    firstError i s =
      if WrongMode i s then some .badMode else if NoModel i s then some .noModel else if ZeroFreq i s then some .zeroFreq else none := by
  simp only [firstError, hb, Bool.false_eq_true, if_false, wrongMode_iff, noModel_iff, zeroCount_iff]

/-! #### The errors inside an issue function (R508, R509, R511 step 6) -/

/-- A command whose pending count overflows only closes the stream and raises PENDING_OVF (R361, R512). -/
theorem effectOf_of_pendingOverflows (h : PendingOverflows i s) : effectOf i s = s.overflowPending i := by
  obtain ⟨rfl, hp⟩ | ⟨sym, rfl, hr⟩ := h
  · exact encFinishEffect_overflow hp
  · rw [ofNat_narrowLow, ofNat_narrowHigh] at hr
    exact encSymEffect_overflow hr

/-- An issue function without an overflow of the pending count or of the total raises nothing. -/
theorem effectOf_raises_nothing (hp : ¬ PendingOverflows i s) (ht : ¬ (i = .ftCommit ∧ 0x3FFF < countSum s 256)) :
    (effectOf i s).err = s.err ∧ (effectOf i s).errCmd = s.errCmd := by
  cases i with
  | ftCommit =>
    have hmax : cumulative s.count 256 ≤ Config.maxTotal := by
      rw [← countSum_eq_cumulative s (Nat.le_refl 256)]
      exact Nat.not_lt.mp fun hlt => ht ⟨rfl, hlt⟩
    rw [effectOf, ftCommitEffect_inRange hmax]
    exact ⟨rfl, rfl⟩
  | encFinish =>
    rw [effectOf, encFinishEffect_done fun hmax => hp (.inl ⟨rfl, hmax⟩)]
    exact ⟨rfl, rfl⟩
  | encSym sym =>
    cases hr : renormEnc (s.narrow sym s.low s.high).1 (s.narrow sym s.low s.high).2 s.pending with
    | none => exact absurd (.inr ⟨sym, rfl, by rw [ofNat_narrowLow, ofNat_narrowHigh, hr]⟩) hp
    | some r =>
      rw [effectOf, encSymEffect_coded hr]
      exact ⟨rfl, rfl⟩
  | _ => exact ⟨rfl, rfl⟩

end ErrorOrder

/-- Settles O8: the check of R511 is `firstError_idle`; past it, the errors left are those of the issue functions. -/
theorem commandErrorsInOrder : Obligations.CommandErrorsInOrder := by
  classical
  intro i s
  refine ⟨fun hb => exec_busy hb i, fun hb hw => exec_refused (e := .badMode) ?_, fun hb hw hn => exec_refused (e := .noModel) ?_,
    fun hb hw hn hz => exec_refused (e := .zeroFreq) ?_, fun hb hw hn hz => ⟨_, exec_of_none ?_, fun hp => ?_, fun ⟨hi, hsum⟩ => ?_,
    effectOf_raises_nothing⟩⟩
  · rw [firstError_idle hb, if_pos hw]
  · rw [firstError_idle hb, if_neg hw, if_pos hn]
  · rw [firstError_idle hb, if_neg hw, if_neg hn, if_pos hz]
  · rw [firstError_idle hb, if_neg hw, if_neg hn, if_neg hz]
  · rw [effectOf_of_pendingOverflows hp]
    exact ⟨rfl, rfl⟩
  · subst hi
    rw [countSum_eq_cumulative s (Nat.le_refl 256)] at hsum
    rw [effectOf, ftCommitEffect_refused hsum]
    exact ⟨rfl, rfl⟩

/-! #### No error gates a later step (R513) -/

/-- The state with another ERR and ERR_CMD. -/
def State.withErrors (s : State) (err : Byte) (errCmd : Word) : State := { s with err := err, errCmd := errCmd }

/-- Two states are equal but for ERR, ERR_CMD and what the host has read. -/
def SameButErrors (u t : State) : Prop := { u with err := t.err, errCmd := t.errCmd, trace := t.trace } = t

section ErrorsGateNothing

variable (s : State) (err : Byte) (errCmd : Word)

theorem sameButErrors_withErrors : SameButErrors (s.withErrors err errCmd) s := rfl

theorem putStep_withErrors : (s.withErrors err errCmd).putStep = s.putStep.withErrors err errCmd := by
  cases ho : s.obl with
  | nil => simp only [State.putStep, State.withErrors, ho]
  | cons b rest =>
    by_cases hn : s.onb = 7
    · rw [putStep_full ho hn, putStep_full (s := s.withErrors err errCmd) ho hn]
      rfl
    · rw [putStep_room ho hn, putStep_room (s := s.withErrors err errCmd) ho hn]
      rfl

theorem getStep_withErrors : (s.withErrors err errCmd).getStep = s.getStep.withErrors err errCmd := by
  cases hi : s.ibl with
  | nil => simp only [State.getStep, State.withErrors, hi]
  | cons c rest =>
    by_cases hn : s.inb = 0
    · cases hq : s.inQ with
      | nil =>
        rw [getStep_empty hi hn hq, getStep_empty (s := s.withErrors err errCmd) hi hn hq]
        rfl
      | cons b bs =>
        rw [getStep_refill hi hn hq, getStep_refill (s := s.withErrors err errCmd) hi hn hq]
        rfl
    · rw [getStep_cached hi hn, getStep_cached (s := s.withErrors err errCmd) hi hn]
      rfl

/-- The engine neither reads nor changes ERR and ERR_CMD. -/
theorem engineTurn_withErrors : (s.withErrors err errCmd).engineTurn = s.engineTurn.withErrors err errCmd := by
  have hput : (s.withErrors err errCmd).putEnabled = s.putEnabled := rfl
  have hget : (s.withErrors err errCmd).getEnabled = s.getEnabled := rfl
  rw [State.engineTurn, State.engineTurn, hput, hget, putStep_withErrors, getStep_withErrors]
  split
  · rfl
  · split <;> rfl

theorem busRead_sameButErrors (off : Offset) : SameButErrors (busRead off (s.withErrors err errCmd)) (busRead off s) := by
  unfold busRead State.afterRead
  split <;> rfl

theorem pushIn_sameButErrors (b : Byte) : SameButErrors ((s.withErrors err errCmd).pushIn b) (s.pushIn b) := by
  by_cases hroom : s.inQ.length < s.params.inDepth
  · rw [pushIn_room b hroom, pushIn_room (s := s.withErrors err errCmd) b hroom]
    rfl
  · rw [pushIn_full b hroom, pushIn_full (s := s.withErrors err errCmd) b hroom]
    rfl

theorem effectOf_sameButErrors (i : Instr) : SameButErrors (effectOf i (s.withErrors err errCmd)) (effectOf i s) := by
  cases i with
  | ftCommit =>
    by_cases hm : cumulative s.count 256 ≤ Config.maxTotal
    · rw [effectOf, ftCommitEffect_inRange hm, ftCommitEffect_inRange (s := s.withErrors err errCmd) hm]
      rfl
    · have hm := Nat.not_le.mp hm
      rw [effectOf, ftCommitEffect_refused hm, ftCommitEffect_refused (s := s.withErrors err errCmd) hm]
      rfl
  | encSym sym =>
    cases hr : renormEnc (s.narrow sym s.low s.high).1 (s.narrow sym s.low s.high).2 s.pending with
    | none =>
      rw [effectOf, encSymEffect_overflow hr, encSymEffect_overflow (s := s.withErrors err errCmd) hr]
      rfl
    | some r =>
      rw [effectOf, encSymEffect_coded hr, encSymEffect_coded (s := s.withErrors err errCmd) hr]
      rfl
  | encFinish =>
    by_cases hp : s.pending = Config.maxPending
    · rw [effectOf, encFinishEffect_overflow hp, encFinishEffect_overflow (s := s.withErrors err errCmd) hp]
      rfl
    · rw [effectOf, encFinishEffect_done hp, encFinishEffect_done (s := s.withErrors err errCmd) hp]
      rfl
  | _ => rfl

theorem issue_sameButErrors (i : Instr) :
    SameButErrors ((s.withErrors err errCmd).issue i (effectOf i)) (s.issue i (effectOf i)) := by
  have hcheck : firstError i (s.withErrors err errCmd) = firstError i s := rfl
  cases hf : firstError i s with
  | some e =>
    rw [issue_of_some _ hf, issue_of_some _ (hcheck.trans hf)]
    rfl
  | none =>
    rw [issue_of_none _ hf, issue_of_none _ (hcheck.trans hf)]
    exact effectOf_sameButErrors s err errCmd i

variable {s err errCmd} {t u : State}

theorem exec_sameButErrors {i : Instr} (h : exec i s = .next t) (h' : exec i (s.withErrors err errCmd) = .next u) : SameButErrors u t := by
  rw [exec_eq] at h h'
  cases h
  cases h'
  exact issue_sameButErrors s err errCmd i

theorem commandPort_sameButErrors {w : Word} (h : commandPort w s = .next t) (h' : commandPort w (s.withErrors err errCmd) = .next u) :
    SameButErrors u t := by
  cases hb : s.busy with
  | true =>
    rw [commandPort_busy hb] at h
    rw [commandPort_busy (s := s.withErrors err errCmd) hb] at h'
    cases h
    cases h'
    rfl
  | false =>
    cases hd : decode w with
    | error why =>
      rw [commandPort_illegal hb hd] at h
      rw [commandPort_illegal (s := s.withErrors err errCmd) hb hd] at h'
      cases h
      cases h'
      rfl
    | ok i =>
      rw [decode_ok_word hd, commandPort_encode] at h h'
      exact exec_sameButErrors h h'

theorem busWrite_sameButErrors {off : Offset} {v : Word} (h : busWrite off v s = .next t)
    (h' : busWrite off v (s.withErrors err errCmd) = .next u) : SameButErrors u t := by
  cases hr : registerAt off
  case cmd =>
    rw [busWrite_cmd hr] at h h'
    exact commandPort_sameButErrors h h'
  case inData =>
    rw [busWrite_inData hr] at h h'
    cases h
    cases h'
    exact pushIn_sameButErrors s err errCmd _
  all_goals
    simp only [busWrite, hr] at h h'
    cases h
    cases h'
    rfl

/-- What an event does to the block depends on neither ERR nor ERR_CMD. -/
theorem perform_sameButErrors {e : Event} (h : perform e s = .next t) (h' : perform e (s.withErrors err errCmd) = .next u) :
    SameButErrors u t := by
  match e, h, h' with
  | .host (.read off), h, h' =>
    cases h
    cases h'
    exact busRead_sameButErrors s err errCmd off
  | .host (.write _ _), h, h' => exact busWrite_sameButErrors h h'
  | .engine, h, h' =>
    cases h
    cases h'
    rw [engineTurn_withErrors]
    exact sameButErrors_withErrors _ err errCmd
  | .reset, h, h' =>
    cases h
    cases h'
    rfl

end ErrorsGateNothing

/-- Settles O9: both states have the same next event, and `perform_sameButErrors` says what it does to them. -/
theorem errorBitsGateNothing : Obligations.ErrorBitsGateNothing := by
  intro s t u err errCmd h h'
  have hother : (s.withErrors err errCmd).agenda = s.agenda := rfl
  change step (s.withErrors err errCmd) = .next u at h'
  cases ha : s.agenda with
  | nil =>
    rw [step_of_agenda_nil ha] at h
    rw [step_of_agenda_nil (hother.trans ha)] at h'
    exact perform_sameButErrors (e := .engine) h h'
  | cons e rest =>
    rw [step_of_agenda_cons ha] at h
    rw [step_of_agenda_cons (hother.trans ha)] at h'
    exact perform_sameButErrors (s := { s with agenda := rest }) h h'

end Sys2Proof.Machine

/-! ### Proofs: reset -/

namespace Sys2Proof.Machine

open Sys2Proof Sys2Proof.Statements

theorem step_of_reset {s : State} {rest : List Event} (ha : s.agenda = .reset :: rest) :
    step s = .next { s with agenda := rest }.applyReset :=
  step_of_agenda_cons ha

/-! #### The computed bits of STATUS right after reset (R52, R66) -/

@[simp] theorem applyReset_busy (s : State) : s.applyReset.busy = false :=
  (busy_eq_false _).mpr ⟨applyReset_obl s, applyReset_ibl s⟩

/-- No input hold: IBL is empty. -/
@[simp] theorem applyReset_inWait (s : State) : s.applyReset.inWait = false :=
  Bool.eq_false_iff.mpr fun h => ((inWait_iff _).mp h).1 (applyReset_ibl s)

/-- No output hold: OBL is empty, so the capacity of OUT does not matter. -/
@[simp] theorem applyReset_outWait (s : State) : s.applyReset.outWait = false :=
  Bool.eq_false_iff.mpr fun h => ((outWait_iff _).mp h).1 (applyReset_obl s)

@[simp] theorem applyReset_errAny (s : State) : s.applyReset.errAny = false := by
  rw [State.errAny, applyReset_err, bne_self_eq_false]

/-- STATUS reads 0 right after reset: each of its fields is 0 (R551). -/
@[simp] theorem applyReset_statusWord (s : State) : s.applyReset.statusWord = 0 := by
  apply BitVec.eq_of_toNat_eq
  rw [statusWord_toNat]
  simp [Mode.bits]

/-- Settles O49: the step is `applyReset`, whose fields `applyReset_low` and its companions give, and STATUS is `applyReset_statusWord`. -/
theorem resetFromAnyState : Obligations.ResetFromAnyState := by
  intro s rest ha
  refine ⟨_, step_of_reset ha, ?fields, applyReset_statusWord _, ?kept⟩
  case fields => simp
  case kept => exact ⟨applyReset_params _, applyReset_agenda _, applyReset_trace _⟩

end Sys2Proof.Machine
